-- ==== Sys2Proof/Word.lean ====
section
/-! DEFINITION. The value types of the block: bytes, addresses, codes, transport errors, floating-point words. -/

namespace Sys2Proof

/-- One byte, bits 7..0 (R10). -/
abbrev Byte := BitVec 8

/-- A device address on the bus: 7 bits (R9 `ADDR_W`, R31). -/
abbrev Addr := BitVec 7

/-- One of the two codes of a frame: 20 bits, unsigned (R9 `CODE_W`, R86, R87). -/
abbrev Code := BitVec 20

/-- `TransportErr` (R9, R25, I1): the transport's own error value, opaque to the block. The token only
tells one value from another; no rule of the block looks at it. Log 4. -/
structure TransportErr where
  token : Nat
  deriving DecidableEq, Repr, Inhabited

/-- The two values the open parameter `FP_FORMAT` may have (R9, D9). -/
inductive FpFormat where
  | binary32
  | binary64
  deriving DecidableEq, Repr, Inhabited

/-- A floating-point value as its IEEE 754 bit pattern, in one of the two formats (R49). -/
inductive FpVal where
  | b32 (bits : BitVec 32)
  | b64 (bits : BitVec 64)
  deriving DecidableEq, Repr, Inhabited

end Sys2Proof
end

