-- ==== Sys2Proof/Syntax.lean ====
section
/-! DEFINITION. The instructions of the block (R4): one constructor per row of spec/opcode_table.json. -/

namespace Sys2Proof

/-- What R4 reads as the block's instructions. The wire transactions carry the address field of their
header (R42); RESET carries `addr_in` (R109). Everything else is constant (R55). -/
inductive Instr where
  /-- READ, the host request (R76, R48). -/
  | read
  /-- RESET with `addr_in` (R109). -/
  | reset (addrIn : Addr)
  /-- Micro-operation of SEQ 0x0 (R76). -/
  | idle
  /-- Micro-operation of SEQ 0x1 (R69). -/
  | checkCal
  /-- Micro-operation of SEQ 0x2 (R70). -/
  | cal1B
  /-- Micro-operation of SEQ 0x3 (R71). -/
  | cal1C
  /-- Micro-operation of SEQ 0x4 (R72). -/
  | cal1E
  /-- Micro-operation of SEQ 0x5 (R77). -/
  | trigger
  /-- Micro-operation of SEQ 0x6 (R78). -/
  | wait
  /-- Micro-operation of SEQ 0x7 (R79). -/
  | readData
  /-- Micro-operation of SEQ 0x8 (R85). -/
  | convert
  /-- Micro-operation of SEQ 0x9 (R80). -/
  | done
  /-- Micro-operation of SEQ 0xA (R97). -/
  | failed
  /-- Status read: 1-byte bus read (R61). -/
  | rdStatus (addr : Addr)
  /-- Data read: 8-byte bus read (R64). -/
  | rdFrame (addr : Addr)
  /-- First calibration write (R65). -/
  | wrCal1B (addr : Addr)
  /-- Second calibration write (R66). -/
  | wrCal1C (addr : Addr)
  /-- Third calibration write (R67). -/
  | wrCal1E (addr : Addr)
  /-- Measurement trigger write (R68). -/
  | wrTrig (addr : Addr)
  /-- The 80 ms delay request (R62). -/
  | dly80
  /-- The recalibration log event (R63). -/
  | logCal
  /-- Sub-operation 0 of CONVERT (R86). -/
  | extractH
  /-- Sub-operation 1 of CONVERT (R87). -/
  | extractT
  /-- Sub-operation 2 of CONVERT (R89). -/
  | convH
  /-- Sub-operation 3 of CONVERT (R90). -/
  | convT
  deriving DecidableEq, Repr

/-- The encoding spaces of R41, one per "format" of spec/opcode_table.json. The same bits mean
different things in different spaces. -/
inductive Format where
  | hostRequest
  | reset
  | seqState
  | busRead
  | busWrite
  | delayRequest
  | logEvent
  | convertSubop
  deriving DecidableEq, Repr

end Sys2Proof
end

