-- ==== Sys2Proof/WellFormed.lean ====
section
/-! DEFINITION. Well-formed instructions. -/

namespace Sys2Proof

/-- The address field of a wire transaction (R42); the other instructions have none. -/
def Instr.wireAddr : Instr → Option Addr
  | .rdStatus a | .rdFrame a | .wrCal1B a | .wrCal1C a | .wrCal1E a | .wrTrig a => some a
  | .read | .reset _ | .idle | .checkCal | .cal1B | .cal1C | .cal1E | .trigger | .wait | .readData
  | .convert | .done | .failed | .dly80 | .logCal | .extractH | .extractT | .convH | .convT => none

/-- `i` is an instruction of the block whose device address is `addr`: "no address other than `ADDR`"
stands in a bus request (R53, R42, R31). All other fields are constants of the constructor. -/
def Instr.wellFormed (addr : Addr) (i : Instr) : Bool :=
  match i.wireAddr with
  | none => true
  | some a => a == addr

end Sys2Proof
end

