-- ==== Sys2Proof/Decode.lean ====
section
/-! DEFINITION. The decoder, total on any bytes in every encoding space, and the encoder after it. -/

namespace Sys2Proof

/-- Why a word is no instruction. -/
inductive DecodeError where
  /-- The byte string is not as long as the format's encodings (R56). -/
  | wrongLength
  /-- A bit above the format's width is set (R56). -/
  | tooWide
  /-- A host request line that asserts nothing (R48). -/
  | notAsserted
  /-- SEQ codes 0xB to 0xF (R52). -/
  | reservedSeq
  /-- A bus request other than the six of the table (R53). -/
  | neverEmitted
  /-- A delay request for another value than 80 (R47, R62). -/
  | otherDelay
  /-- A log port that shows no event (R54). -/
  | noLogEvent
  /-- A sub-step label outside CONVERT (R51). -/
  | notConvert
  deriving DecidableEq, Repr

/-- Width in bits of the encodings of a format (R42, R47, R48, R51, R54, R56, R109). -/
def Format.width : Format → Nat
  | .hostRequest => 1
  | .reset => 7
  | .seqState => 4
  | .busRead => 12
  | .busWrite => 36
  | .delayRequest => 16
  | .logEvent => 1
  | .convertSubop => 6

/-- Bytes that hold an encoding of the format. -/
def Format.bytes (f : Format) : Nat := (f.width + 7) / 8

/-- The number a byte string stands for, first byte least significant: the numbering of
spec/opcode_table.json as the host reads it. DESIGN CHOICE, log 14. -/
def numberOfBytes : List Byte → Nat
  | [] => 0
  | b :: bs => b.toNat + 256 * numberOfBytes bs

/-- The first `n` bytes of a number, least significant first. -/
def bytesOfNumber : Nat → Nat → List Byte
  | 0, _ => []
  | n + 1, w => BitVec.ofNat 8 w :: bytesOfNumber n (w / 256)

/-- Field `hi = lo + n - 1 .. lo` of a number. -/
def field (w lo n : Nat) : Nat := w / 2 ^ lo % 2 ^ n

/-- SEQ codes (R51, R18): the micro-operation each code selects; 0xB to 0xF are reserved (R52). -/
def decodeSeq (code : Nat) : Except DecodeError Instr :=
  match code with
  | 0x0 => .ok .idle
  | 0x1 => .ok .checkCal
  | 0x2 => .ok .cal1B
  | 0x3 => .ok .cal1C
  | 0x4 => .ok .cal1E
  | 0x5 => .ok .trigger
  | 0x6 => .ok .wait
  | 0x7 => .ok .readData
  | 0x8 => .ok .convert
  | 0x9 => .ok .done
  | 0xA => .ok .failed
  | _ => .error .reservedSeq

/-- A bus request without payload (R42): `dir` bit 11, `addr` bits 10:4, `len` bits 3:0. -/
def decodeBusRead (w : Nat) : Except DecodeError Instr :=
  if field w 11 1 = 1 then
    match field w 0 4 with
    | 1 => .ok (.rdStatus (BitVec.ofNat 7 (field w 4 7)))
    | 8 => .ok (.rdFrame (BitVec.ofNat 7 (field w 4 7)))
    | _ => .error .neverEmitted
  else .error .neverEmitted

/-- A bus request with three payload bytes (R42, R44): header in bits 35:24, `wdata[0]` in 23:16,
`wdata[1]` in 15:8, `wdata[2]` in 7:0. -/
def decodeBusWrite (w : Nat) : Except DecodeError Instr :=
  if field w 35 1 = 0 ∧ field w 24 4 = 3 then
    let a := BitVec.ofNat 7 (field w 28 7)
    if field w 0 24 = 0x1B0000 then .ok (.wrCal1B a)
    else if field w 0 24 = 0x1C0000 then .ok (.wrCal1C a)
    else if field w 0 24 = 0x1E0000 then .ok (.wrCal1E a)
    else if field w 0 24 = 0xAC3300 then .ok (.wrTrig a)
    else .error .neverEmitted
  else .error .neverEmitted

/-- A sub-step label of CONVERT (R51): SEQ in bits 5:2, `sub` in bits 1:0. -/
def decodeSubop (w : Nat) : Except DecodeError Instr :=
  if field w 2 4 = 8 then
    match field w 0 2 with
    | 0 => .ok .extractH
    | 1 => .ok .extractT
    | 2 => .ok .convH
    | _ => .ok .convT
  else .error .notConvert

/-- The instruction that the bits `w` stand for in the encoding space `f` (R41). -/
def decodeWord (f : Format) (w : Nat) : Except DecodeError Instr :=
  if w < 2 ^ f.width then
    match f with
    | .hostRequest => if w = 1 then .ok .read else .error .notAsserted
    | .reset => .ok (.reset (BitVec.ofNat 7 w))
    | .seqState => decodeSeq w
    | .busRead => decodeBusRead w
    | .busWrite => decodeBusWrite w
    | .delayRequest => if w = 80 then .ok .dly80 else .error .otherDelay
    | .logEvent => if w = 1 then .ok .logCal else .error .noLogEvent
    | .convertSubop => decodeSubop w
  else .error .tooWide

/-- The decoder on bytes. -/
def decode (f : Format) (bs : List Byte) : Except DecodeError Instr :=
  if bs.length = f.bytes then decodeWord f (numberOfBytes bs) else .error .wrongLength

/-! ## The encoder -/

/-- The space an instruction is encoded in. -/
def Instr.format : Instr → Format
  | .read => .hostRequest
  | .reset _ => .reset
  | .idle | .checkCal | .cal1B | .cal1C | .cal1E | .trigger | .wait | .readData | .convert | .done
  | .failed => .seqState
  | .rdStatus _ | .rdFrame _ => .busRead
  | .wrCal1B _ | .wrCal1C _ | .wrCal1E _ | .wrTrig _ => .busWrite
  | .dly80 => .delayRequest
  | .logCal => .logEvent
  | .extractH | .extractT | .convH | .convT => .convertSubop

/-- Bus request header of R42 as a number of 12 bits. -/
def headerWord (dir : Nat) (addr : Addr) (len : Nat) : Nat := dir * 2 ^ 11 + addr.toNat * 2 ^ 4 + len

/-- A command write as a number of 36 bits: header, then the three payload bytes (R42, R44). -/
def commandWord (addr : Addr) (c p1 p2 : Nat) : Nat :=
  headerWord 0 addr 3 * 2 ^ 24 + c * 2 ^ 16 + p1 * 2 ^ 8 + p2

/-- The bits of an instruction in its own space, from the encodings of 30_encoding.md. -/
def encodeWord : Instr → Nat
  | .read => 1
  | .reset a => a.toNat
  | .idle => 0x0
  | .checkCal => 0x1
  | .cal1B => 0x2
  | .cal1C => 0x3
  | .cal1E => 0x4
  | .trigger => 0x5
  | .wait => 0x6
  | .readData => 0x7
  | .convert => 0x8
  | .done => 0x9
  | .failed => 0xA
  | .rdStatus a => headerWord 1 a 1
  | .rdFrame a => headerWord 1 a 8
  | .wrCal1B a => commandWord a 0x1B 0x00 0x00
  | .wrCal1C a => commandWord a 0x1C 0x00 0x00
  | .wrCal1E a => commandWord a 0x1E 0x00 0x00
  | .wrTrig a => commandWord a 0xAC 0x33 0x00
  | .dly80 => 0x0050
  | .logCal => 1
  | .extractH => 0x8 * 4 + 0
  | .extractT => 0x8 * 4 + 1
  | .convH => 0x8 * 4 + 2
  | .convT => 0x8 * 4 + 3

/-- The bytes of an instruction. -/
def encode (i : Instr) : List Byte := bytesOfNumber i.format.bytes (encodeWord i)

/-! ## Words without their encoding space -/

/-- The space a word of the table is read in when only its length is known. The exact widths of the
table name the space, but for 1 bit, where the host's request comes before the log event. Whole
bytes do not: among 8-bit words the SEQ codes come first, then the labels of CONVERT, then RESET; a
16-bit word with bit 11 set is a bus read, any other a delay request. DESIGN CHOICE, log 14. -/
def tableFormat (nbits w : Nat) : Option Format :=
  match nbits with
  | 1 => some .hostRequest
  | 4 => some .seqState
  | 6 => some .convertSubop
  | 7 => some .reset
  | 8 => some (if w < 16 then .seqState else if w / 4 = 8 then .convertSubop else .reset)
  | 12 => some .busRead
  | 16 => some (if field w 11 1 = 1 then .busRead else .delayRequest)
  | 36 => some .busWrite
  | 40 => some .busWrite
  | _ => none

/-- The instruction the decoder reads from the bits `w` of a row of `nbits` bits. -/
def decodeTableWord (nbits w : Nat) : Option Instr :=
  match tableFormat nbits w with
  | none => none
  | some f =>
    match decodeWord f w with
    | .ok i => some i
    | .error _ => none

end Sys2Proof
end

