-- ==== Sys2Proof/Config.lean ====
section
/-! DEFINITION. The open parameters of the block (R9). None has a body: nothing can be proved of its value. -/

namespace Sys2Proof

/-- `FP_FORMAT` (R9, D9, I6): OPEN, binary32 or binary64. Log 3. -/
opaque Config.fpFormat : FpFormat

/-- `addr_in` at the power-up reset (R109, N2, I14): supplied from outside, no default. Log 2. -/
opaque Config.addrIn : Addr

/-- `MIN_READ_INTERVAL` (R9, R116, D20, I7): OPEN, the host's duty, not enforced by the block, so no
definition of the model reads it. Log 12. -/
opaque Config.minReadInterval : Nat

/-- Free value: sign and payload of the quiet NaN that an invalid IEEE 754 operation gives. IEEE 754
leaves them open and no conversion of this block produces a NaN (R93). Log 13. -/
opaque Config.nanPattern : FpFormat → Nat

/-- Free value: byte `i` of FRAME while no transition has written it (R29, R84). Log 5. -/
opaque Config.unwrittenByte : Nat → Byte

/-- Free value: the bit pattern of HUM while no transition has written it. Log 5. -/
opaque Config.unwrittenHum : Nat

/-- Free value: the bit pattern of TEMP while no transition has written it. Log 5. -/
opaque Config.unwrittenTemp : Nat

/-- Free value: ERR_KIND while no transition has written it. Log 5. -/
opaque Config.unwrittenErrKind : BitVec 1

/-- Free value: ERR_VAL while no transition has written it. Log 5. -/
opaque Config.unwrittenErrVal : TransportErr

/-- Free value: what `RAW_H`, local to the CONVERT transition (R17), is where no EXTRACT_H has given it a
value. Log 6. -/
opaque Config.noCodeH : Code

/-- Free value: the same for `RAW_T` and EXTRACT_T. Log 6. -/
opaque Config.noCodeT : Code

end Sys2Proof
end

