-- ==== Sys2Proof/Machine/Float.lean ====
section
/-! DEFINITION. IEEE 754 binary32 and binary64 arithmetic with round to nearest, ties to even (R13, D9). -/

namespace Sys2Proof

/-- Fraction bits of the format (IEEE 754; PRESUMED, log 13). -/
def FpFormat.fracBits : FpFormat → Nat
  | .binary32 => 23
  | .binary64 => 52

/-- Exponent bits of the format. -/
def FpFormat.expBits : FpFormat → Nat
  | .binary32 => 8
  | .binary64 => 11

/-- Width of the format: 32 or 64 bits (R49). -/
def FpFormat.width (f : FpFormat) : Nat := 1 + f.expBits + f.fracBits

/-- Exponent bias. -/
def FpFormat.bias (f : FpFormat) : Nat := 2 ^ (f.expBits - 1) - 1

/-- The weight of the lowest bit of a subnormal number is two to this power. -/
def FpFormat.minExp (f : FpFormat) : Int := 1 - (f.bias : Int) - (f.fracBits : Int)

/-- The biased exponent of infinities and NaNs. -/
def FpFormat.maxBiased (f : FpFormat) : Nat := 2 ^ f.expBits - 1

/-- The value whose bit pattern is `n`. -/
def FpFormat.ofPattern : FpFormat → Nat → FpVal
  | .binary32, n => .b32 (BitVec.ofNat 32 n)
  | .binary64, n => .b64 (BitVec.ofNat 64 n)

/-- The format of a value. -/
def FpVal.format : FpVal → FpFormat
  | .b32 _ => .binary32
  | .b64 _ => .binary64

/-- The bit pattern of a value (R49). -/
def FpVal.pattern : FpVal → Nat
  | .b32 b => b.toNat
  | .b64 b => b.toNat

/-- A value taken apart. `fin neg m e` is `m * 2^e`, negated if `neg`. -/
inductive Unpacked where
  | nan
  | inf (neg : Bool)
  | fin (neg : Bool) (m : Nat) (e : Int)
  deriving DecidableEq, Repr

/-- Sign bit of a pattern. -/
def FpFormat.signOf (f : FpFormat) (n : Nat) : Bool := n / 2 ^ (f.width - 1) % 2 == 1

/-- What a pattern of the format stands for. -/
def FpFormat.unpack (f : FpFormat) (n : Nat) : Unpacked :=
  let biased := n / 2 ^ f.fracBits % 2 ^ f.expBits
  let frac := n % 2 ^ f.fracBits
  if biased = f.maxBiased then
    if frac = 0 then .inf (f.signOf n) else .nan
  else if biased = 0 then .fin (f.signOf n) frac f.minExp
  else .fin (f.signOf n) (2 ^ f.fracBits + frac) (f.minExp + (biased - 1 : Nat))

/-- What a value stands for. -/
def FpVal.unpack (v : FpVal) : Unpacked := v.format.unpack v.pattern

/-- `m / 2^k` rounded to nearest, ties to even. -/
def roundShift (m k : Nat) : Nat :=
  let q := m / 2 ^ k
  let r := m % 2 ^ k
  if 2 ^ k < 2 * r ∨ (2 * r = 2 ^ k ∧ q % 2 = 1) then q + 1 else q

/-- A magnitude pattern with its sign. -/
def FpFormat.signed (f : FpFormat) (neg : Bool) (mag : Nat) : FpVal :=
  f.ofPattern ((if neg then 2 ^ (f.width - 1) else 0) + mag)

/-- The weight, as a power of two, of the last place of the result that holds `m * 2^e`, `m` nonzero. -/
def FpFormat.lastPlace (f : FpFormat) (m : Nat) (e : Int) : Int :=
  max ((m.log2 : Int) + e - (f.fracBits : Int)) f.minExp

/-- `m * 2^e` in units of the place `p`, rounded once if that drops bits. -/
def inUnits (m : Nat) (e p : Int) : Nat :=
  if p ≤ e then m * 2 ^ (e - p).toNat else roundShift m (p - e).toNat

/-- Pattern of the magnitude of `m * 2^e`, `m` nonzero, rounded once. A carry out of the fraction runs
into the exponent field, as the formats are laid out; too large a magnitude is infinite. -/
def FpFormat.magnitude (f : FpFormat) (m : Nat) (e : Int) : Nat :=
  min ((f.lastPlace m e - f.minExp).toNat * 2 ^ f.fracBits + inUnits m e (f.lastPlace m e))
    (f.maxBiased * 2 ^ f.fracBits)

/-- The value of the format nearest to `m * 2^e` (negated if `neg`), ties to even. -/
def FpFormat.round (f : FpFormat) (neg : Bool) (m : Nat) (e : Int) : FpVal :=
  f.signed neg (if m = 0 then 0 else f.magnitude m e)

/-- An infinity. -/
def FpFormat.infinity (f : FpFormat) (neg : Bool) : FpVal :=
  f.signed neg (f.maxBiased * 2 ^ f.fracBits)

/-- The quiet NaN of an invalid operation; sign and payload are open (log 13). -/
def FpFormat.quietNaN (f : FpFormat) : FpVal :=
  let half := 2 ^ (f.fracBits - 1)
  f.signed (Config.nanPattern f / half % 2 == 1)
    (f.maxBiased * 2 ^ f.fracBits + half + Config.nanPattern f % half)

/-- `fp(n)` (R13): the unsigned integer `n` in the format. -/
def FpFormat.fp (f : FpFormat) (n : Nat) : FpVal := f.round false n 0

/-- IEEE 754 product of two unpacked values, rounded once. -/
def FpFormat.mulUnpacked (f : FpFormat) : Unpacked → Unpacked → FpVal
  | .fin na ma ea, .fin nb mb eb => f.round (na != nb) (ma * mb) (ea + eb)
  | .inf na, .inf nb => f.infinity (na != nb)
  | .inf na, .fin nb mb _ => if mb = 0 then f.quietNaN else f.infinity (na != nb)
  | .fin na ma _, .inf nb => if ma = 0 then f.quietNaN else f.infinity (na != nb)
  | .nan, _ => f.quietNaN
  | _, .nan => f.quietNaN

/-- `fmul(a, b)` (R13). -/
def FpFormat.fmul (f : FpFormat) (a b : FpVal) : FpVal := f.mulUnpacked a.unpack b.unpack

/-- A signed magnitude as an integer. -/
def signedInt (neg : Bool) (m : Nat) : Int := if neg then -(m : Int) else m

/-- The exact sum of two finite values as an integer times `2 ^ min ea eb`. -/
def exactSum (na : Bool) (ma : Nat) (ea : Int) (nb : Bool) (mb : Nat) (eb : Int) : Int :=
  signedInt na (ma * 2 ^ (ea - min ea eb).toNat) + signedInt nb (mb * 2 ^ (eb - min ea eb).toNat)

/-- IEEE 754 sum of two unpacked values, rounded once. An exact zero sum of unlike signs is +0 (R90, G2). -/
def FpFormat.addUnpacked (f : FpFormat) : Unpacked → Unpacked → FpVal
  | .fin na ma ea, .fin nb mb eb =>
    let x := exactSum na ma ea nb mb eb
    if x = 0 then f.round (na && nb) 0 0
    else f.round (decide (x < 0)) x.natAbs (min ea eb)
  | .inf na, .inf nb => if na = nb then f.infinity na else f.quietNaN
  | .inf na, .fin _ _ _ => f.infinity na
  | .fin _ _ _, .inf nb => f.infinity nb
  | .nan, _ => f.quietNaN
  | _, .nan => f.quietNaN

/-- The value with the other sign. -/
def Unpacked.negate : Unpacked → Unpacked
  | .nan => .nan
  | .inf n => .inf (!n)
  | .fin n m e => .fin (!n) m e

/-- `fsub(a, b)` (R13). -/
def FpFormat.fsub (f : FpFormat) (a b : FpVal) : FpVal := f.addUnpacked a.unpack b.unpack.negate

end Sys2Proof
end

