-- ==== Sys2Proof/Machine/State.lean ====
section
/-! DEFINITION. The state of the block as plain data, its reset value, and the ways a step can stop. -/

namespace Sys2Proof.Machine

/-- A register and what it holds. `unwritten v`: no transition has written it since reset or since the last
READ was over, so that its contents `v` are a free value and nothing more (R29 "Unwritten", R84, I8).
`holds v`: a transition wrote `v`. Reading gives `v` either way and never stops the machine. Log 5. -/
inductive Reg (α : Type) where
  | unwritten (v : α)
  | holds (v : α)
  deriving DecidableEq, Repr

/-- `FRAME[0..7]` in delivery order (R22, R46). -/
structure Frame where
  b0 : Byte
  b1 : Byte
  b2 : Byte
  b3 : Byte
  b4 : Byte
  b5 : Byte
  b6 : Byte
  b7 : Byte
  deriving DecidableEq, Repr

/-- A bus request: the header fields of R42 and the payload of a write, `wdata[0]` first. -/
structure BusRequest where
  dir   : BitVec 1
  addr  : Addr
  len   : BitVec 4
  wdata : List Byte
  deriving DecidableEq, Repr

/-- A bus response (R43): `ok = 1` with the bytes of a read in delivery order (none for a write), or
`ok = 0` with the transport's error value. -/
inductive BusResponse where
  | ok (rdata : List Byte)
  | fail (err : TransportErr)
  deriving DecidableEq, Repr

/-- What the outside world shows the block in one step (R101): any number of the inputs together. -/
structure Inputs where
  /-- Reset with `addr_in` (R109). -/
  reset     : Option Addr := none
  /-- The host's READ line, which the host holds until it is accepted (R48, R115). -/
  read      : Bool := false
  /-- The host's accept event (R49). -/
  accept    : Bool := false
  /-- The answer to the outstanding bus request (R43). -/
  bus       : Option BusResponse := none
  /-- The completion of the outstanding delay (R47). -/
  delay     : Bool := false
  /-- An answer to a bus request that a reset abandoned (R111). Log 8. -/
  lateBus   : Option BusResponse := none
  /-- The completion of a delay that a reset abandoned (R111). Log 8. -/
  lateDelay : Bool := false
  deriving DecidableEq, Repr

/-- One line of a trace in the syntax of R57 (its `LOG` line apart, which has a list of its own: log 7). -/
inductive Event where
  /-- `RESET a` -/
  | reset (addrIn : Addr)
  /-- `READ` -/
  | read
  /-- `RD a, n` and `WR a, b0, b1, b2`: the bus request as it stands on the port (R42). -/
  | bus (req : BusRequest)
  /-- `DLY ms` (R47) -/
  | delay (ms : BitVec 16)
  /-- `-> ok` and `-> ok [b0, …]` -/
  | busOk (rdata : List Byte)
  /-- `-> fail e` -/
  | busFail (err : TransportErr)
  /-- `-> done` -/
  | delayDone
  /-- `OK t, h`: a Reading accepted by the host. -/
  | respOk (temp hum : FpVal)
  /-- `ERR TRANSPORT, e`: an error accepted by the host. -/
  | respErr (err : TransportErr)
  /-- A response with `err_kind = 1`, which carries no value and which no run presents (R50, R98). -/
  | respTooFast
  deriving DecidableEq, Repr

/-- An event at the log sink: one kind, no content (R54). -/
inductive LogEvent where
  | cal
  deriving DecidableEq, Repr

/-- What stops the machine with a fault. -/
inductive Fault where
  /-- `BAD_SEQ`: SEQ holds a reserved code (R52, I9). Raised by step. Safe. -/
  | badSeq
  deriving DecidableEq, Repr

/-- What the machine has no move for. -/
inductive Refusal where
  /-- An instruction without a meaning. Raised by exec's arm; none is left. Safe. -/
  | notModelled (mnemonic : String)
  /-- A bus response that answers no request: the environment's duty is broken (D25, I12). Raised by
  step. Safe. -/
  | unrequestedBusResponse
  /-- A delay completion that answers no request (D25). Raised by step. Safe. -/
  | unrequestedDelayCompletion
  /-- A successful response that carries another number of bytes than the request asked for, which
  "does not exist" (R43, D7). Raised by the micro-operations that receive a response. Safe. -/
  | responseLength
  /-- A wire transaction at another address than ADDR, which "is never emitted by the block" (R53).
  Raised by the six wire transactions. Safe. -/
  | foreignAddress
  deriving DecidableEq, Repr

/-- The state: the seven registers of R17, then the model's own fields (INVENTORY.md, '## State'). -/
structure State where
  /-- `SEQ`, the program counter (R18, R51). -/
  seq       : BitVec 4
  /-- `ADDR` (R19). -/
  addr      : Addr
  /-- `FRAME[0..7]` (R22). -/
  frame     : Reg Frame
  /-- `HUM` (R24). -/
  hum       : Reg FpVal
  /-- `TEMP` (R24). -/
  temp      : Reg FpVal
  /-- `ERR_KIND` (R25, R50). -/
  errKind   : Reg (BitVec 1)
  /-- `ERR_VAL` (R25). -/
  errVal    : Reg TransportErr
  /-- `RAW_H`, local to CONVERT, no register of the block (R17); `Config.noCodeH` outside it. Log 6. -/
  rawH      : Code
  /-- `RAW_T`, local to CONVERT, no register of the block (R17); `Config.noCodeT` outside it. Log 6. -/
  rawT      : Code
  /-- The parameter `FP_FORMAT` of this block (R9, D9). Log 3. -/
  fmt       : FpFormat
  /-- The inputs to come, one record a step, oldest first (R32, R101). Log 1. -/
  env       : List Inputs
  /-- Bus requests abandoned by a reset and not answered yet (R111). Log 8. -/
  owedBus   : Nat
  /-- Delays abandoned by a reset and not completed yet (R111). Log 8. -/
  owedDelay : Nat
  /-- The events at the ports so far, oldest first (R57). Log 7. -/
  trace     : List Event
  /-- The events at the log sink so far (R54). Log 7. -/
  logOut    : List LogEvent
  deriving DecidableEq, Repr

/-- FRAME while unwritten. Log 5. -/
def unwrittenFrame : Reg Frame :=
  .unwritten ⟨Config.unwrittenByte 0, Config.unwrittenByte 1, Config.unwrittenByte 2,
    Config.unwrittenByte 3, Config.unwrittenByte 4, Config.unwrittenByte 5, Config.unwrittenByte 6,
    Config.unwrittenByte 7⟩

/-- HUM while unwritten, in the format `f`. Log 5. -/
def unwrittenHum (f : FpFormat) : Reg FpVal := .unwritten (f.ofPattern Config.unwrittenHum)

/-- TEMP while unwritten, in the format `f`. Log 5. -/
def unwrittenTemp (f : FpFormat) : Reg FpVal := .unwritten (f.ofPattern Config.unwrittenTemp)

/-- ERR_KIND while unwritten. Log 5. -/
def unwrittenErrKind : Reg (BitVec 1) := .unwritten Config.unwrittenErrKind

/-- ERR_VAL while unwritten. Log 5. -/
def unwrittenErrVal : Reg TransportErr := .unwritten Config.unwrittenErrVal

/-- The block right after a reset with `addr_in = a` (R29, R109), in the format `f`. -/
def State.afterReset (a : Addr) (f : FpFormat) : State where
  seq := 0x0
  addr := a
  frame := unwrittenFrame
  hum := unwrittenHum f
  temp := unwrittenTemp f
  errKind := unwrittenErrKind
  errVal := unwrittenErrVal
  rawH := Config.noCodeH
  rawT := Config.noCodeT
  fmt := f
  env := []
  owedBus := 0
  owedDelay := 0
  trace := []
  logOut := []

/-- The machine right after the power-up reset (R29, R109): nothing has arrived, nothing was issued. -/
def State.reset : State := State.afterReset Config.addrIn Config.fpFormat

/-- What the ports show in the present step; nothing when no input is left. -/
def State.now (s : State) : Inputs :=
  match s.env with
  | [] => {}
  | i :: _ => i

end Sys2Proof.Machine
end

