-- ==== Sys2Proof/Machine/Operands.lean ====
section
/-! DEFINITION. The operands of the micro-operations: requests and commands, the frame, the codes, the
conversion and the host response. -/

namespace Sys2Proof.Machine

/-! ## Registers -/

/-- What a read of the register gives. -/
def Reg.get {α : Type} : Reg α → α
  | .unwritten v => v
  | .holds v => v

/-! ## Requests (R42, R44, R45, R47) -/

/-- The request of `BusRead(addr, n)` (R59). -/
def readRequest (a : Addr) (n : BitVec 4) : BusRequest := ⟨1, a, n, []⟩

/-- The request of `BusWrite(addr, [c, p1, p2])` (R60, R44). -/
def commandRequest (a : Addr) (c p1 p2 : Byte) : BusRequest := ⟨0, a, 3, [c, p1, p2]⟩

/-- `RD_STATUS` (R61): `STATUS_LEN` is 1. -/
def rdStatusRequest (a : Addr) : BusRequest := readRequest a 1

/-- `RD_FRAME` (R64): `FRAME_LEN` is 8. -/
def rdFrameRequest (a : Addr) : BusRequest := readRequest a 8

/-- `WR_CAL_1B` (R65). -/
def wrCal1BRequest (a : Addr) : BusRequest := commandRequest a 0x1B 0x00 0x00

/-- `WR_CAL_1C` (R66). -/
def wrCal1CRequest (a : Addr) : BusRequest := commandRequest a 0x1C 0x00 0x00

/-- `WR_CAL_1E` (R67). -/
def wrCal1ERequest (a : Addr) : BusRequest := commandRequest a 0x1E 0x00 0x00

/-- `WR_TRIG` (R68). -/
def wrTrigRequest (a : Addr) : BusRequest := commandRequest a 0xAC 0x33 0x00

/-- `DELAY_MS` (R62, R47). -/
def delayMs : BitVec 16 := 80

/-- The header as it stands on the port: `dir`, `addr`, `len` from bit 11 down (R42). -/
def BusRequest.header (r : BusRequest) : BitVec 12 := r.dir ++ r.addr ++ r.len

/-- Header, then the payload bytes, `wdata[0]` highest (R42, R56). -/
def BusRequest.word (r : BusRequest) : Nat :=
  r.wdata.foldl (fun w b => w * 256 + b.toNat) r.header.toNat

/-! ## Sequencer codes (R18, R51) -/

def seqIdle : BitVec 4 := 0x0
def seqCheckCal : BitVec 4 := 0x1
def seqCal1B : BitVec 4 := 0x2
def seqCal1C : BitVec 4 := 0x3
def seqCal1E : BitVec 4 := 0x4
def seqTrigger : BitVec 4 := 0x5
def seqWait : BitVec 4 := 0x6
def seqReadData : BitVec 4 := 0x7
def seqConvert : BitVec 4 := 0x8
def seqDone : BitVec 4 := 0x9
def seqFailed : BitVec 4 := 0xA

/-- What the block waits on. -/
inductive Request where
  | bus (req : BusRequest)
  | delay (ms : BitVec 16)
  deriving DecidableEq, Repr

/-- The outstanding request, a function of SEQ (R27, table of R18). -/
def State.outstanding (s : State) : Option Request :=
  match s.seq with
  | 0x1 => some (.bus (rdStatusRequest s.addr))
  | 0x2 => some (.bus (wrCal1BRequest s.addr))
  | 0x3 => some (.bus (wrCal1CRequest s.addr))
  | 0x4 => some (.bus (wrCal1ERequest s.addr))
  | 0x5 => some (.bus (wrTrigRequest s.addr))
  | 0x6 => some (.delay delayMs)
  | 0x7 => some (.bus (rdFrameRequest s.addr))
  | _ => none

/-- The block waits for a bus response. -/
def State.awaitsBus (s : State) : Bool :=
  match s.outstanding with
  | some (.bus _) => true
  | some (.delay _) => false
  | none => false

/-- The block waits for the delay to complete. -/
def State.awaitsDelay (s : State) : Bool :=
  match s.outstanding with
  | some (.bus _) => false
  | some (.delay _) => true
  | none => false

/-! ## The frame (R46) -/

/-- The frame in delivery order; a data read delivers exactly 8 bytes (R43, R64). -/
def Frame.ofBytes : List Byte → Option Frame
  | [b0, b1, b2, b3, b4, b5, b6, b7] => some ⟨b0, b1, b2, b3, b4, b5, b6, b7⟩
  | _ => none

/-- The frame's bytes in delivery order. -/
def Frame.bytes (f : Frame) : List Byte := [f.b0, f.b1, f.b2, f.b3, f.b4, f.b5, f.b6, f.b7]

/-- `zext_32` (R88). -/
def zext32 (b : Byte) : BitVec 32 := b.setWidth 32

/-- `RAW_H = ((b1 << 8 | b2) << 4) | (b3 >> 4)` on 32 bits (R86, R88). -/
def rawHOf (f : Frame) : Code :=
  (((zext32 f.b1 <<< 8 ||| zext32 f.b2) <<< 4) ||| (zext32 f.b3 >>> 4)).setWidth 20

/-- `RAW_T = ((b3 & 0x0F) << 16) | (b4 << 8) | b5` on 32 bits (R87, R88). -/
def rawTOf (f : Frame) : Code :=
  (((zext32 f.b3 &&& 0x0F) <<< 16) ||| (zext32 f.b4 <<< 8) ||| zext32 f.b5).setWidth 20

/-! ## Conversion (R89 to R91) -/

/-- `C_H = 9.5367431640625e-5 = 25 × 2^-18`, exact in both formats (R9, R91). -/
def constH (f : FpFormat) : FpVal := f.round false 25 (-18)

/-- `C_T = 1.9073486328125e-4 = 25 × 2^-17`, exact in both formats (R9, R91). -/
def constT (f : FpFormat) : FpVal := f.round false 25 (-17)

/-- `T_OFF = 50.0 = 25 × 2^1`, exact in both formats (R9, R91). -/
def tempOffset (f : FpFormat) : FpVal := f.round false 25 1

/-- `fmul(fp(RAW_H), C_H)` (R89). -/
def humOf (f : FpFormat) (raw : Code) : FpVal := f.fmul (f.fp raw.toNat) (constH f)

/-- `fsub(fmul(fp(RAW_T), C_T), 50.0)`, two roundings (R90). -/
def tempOf (f : FpFormat) (raw : Code) : FpVal :=
  f.fsub (f.fmul (f.fp raw.toNat) (constT f)) (tempOffset f)

/-! ## The host response (R49, R50) -/

/-- `ERR_KIND = 0`, `TRANSPORT` (R50, R95). -/
def errTransport : BitVec 1 := 0

/-- `ERR_KIND = 1`, `READ_TOO_FAST`, which no transition writes (R50, R98). -/
def errReadTooFast : BitVec 1 := 1

/-- The response: a Reading, or an error kind with its value; `READ_TOO_FAST` carries none (R50). -/
inductive HostResponse where
  | ok (temp hum : FpVal)
  | transport (err : TransportErr)
  | readTooFast
  deriving DecidableEq, Repr

/-- The response's `kind` bit (R49). -/
def HostResponse.kind : HostResponse → BitVec 1
  | .ok _ _ => 0
  | .transport _ => 1
  | .readTooFast => 1

/-- The trace line of a response the host accepts (R57). -/
def HostResponse.event : HostResponse → Event
  | .ok t h => .respOk t h
  | .transport e => .respErr e
  | .readTooFast => .respTooFast

/-- The response of FAILED (R97): the error with its value. The kind `READ_TOO_FAST`, which no transition
writes (R98), would carry none (R50; log 19). -/
def State.errorResponse (s : State) : HostResponse :=
  if s.errKind.get = errTransport then .transport s.errVal.get else .readTooFast

/-- The response on the host port (R49): the Reading in DONE (R80), the error in FAILED (R97), nothing
elsewhere. -/
def State.response (s : State) : Option HostResponse :=
  match s.seq with
  | 0x9 => some (.ok s.temp.get s.hum.get)
  | 0xA => some s.errorResponse
  | _ => none

/-! ## Pseudo-operations of R58, as the requests they stand for -/

/-- `STAT a` -/
def pseudoStat (a : Addr) : List Event := [.bus (rdStatusRequest a)]

/-- `CALSEQ a` -/
def pseudoCalSeq (a : Addr) : List Event :=
  [.bus (wrCal1BRequest a), .bus (wrCal1CRequest a), .bus (wrCal1ERequest a)]

/-- `TRIG a` -/
def pseudoTrig (a : Addr) : List Event := [.bus (wrTrigRequest a)]

/-- `FETCH a` -/
def pseudoFetch (a : Addr) : List Event := [.bus (rdFrameRequest a)]

/-- `MEASURE a` -/
def pseudoMeasure (a : Addr) : List Event := pseudoTrig a ++ [.delay delayMs] ++ pseudoFetch a

end Sys2Proof.Machine
end

