-- ==== Sys2Proof/Machine/Flags.lean ====
section
/-! DEFINITION. The condition flag and the two status outputs: functions, not stored bits. -/

namespace Sys2Proof.Machine

/-- `CAL_MASK` (R9). -/
def calMask : Byte := 0x18

/-- `CAL_OK(s) = ((s & 0x18) == 0x18)`, the block's only condition flag (R21). -/
def calOk (status : Byte) : Bool := status &&& calMask == calMask

/-- `host_ready` (R26): a READ request is accepted only now. -/
def State.hostReady (s : State) : Bool := s.seq == seqIdle

/-- `resp_valid` (R26). -/
def State.respValid (s : State) : Bool := s.seq == seqDone || s.seq == seqFailed

end Sys2Proof.Machine
end

