-- ==== Sys2Proof/Machine/Ops.lean ====
section
/-! DEFINITION. The shared operations of the meanings: outputs, bus responses, failure entry
and return, reset, the choice of the next instruction and the selection of a given one. -/

namespace Sys2Proof.Machine

/-- What a meaning answers. -/
abbrev Result := Host.Outcome State Fault Refusal

/-! ## Small updates of the state -/

/-- An event at the host, bus or delay port. -/
def State.emit (e : Event) (s : State) : State := { s with trace := s.trace ++ [e] }

/-- `EmitLog(CAL)` (R63). -/
def State.emitLog (s : State) : State := { s with logOut := s.logOut ++ [.cal] }

/-- `SEQ <- c` (R11). -/
def State.goto (c : BitVec 4) (s : State) : State := { s with seq := c }

/-- `FRAME[i] <- b[i]` for all i (R79). -/
def State.setFrame (f : Frame) (s : State) : State := { s with frame := .holds f }

/-- `HUM <- v` (R89). -/
def State.setHum (v : FpVal) (s : State) : State := { s with hum := .holds v }

/-- `TEMP <- v` (R90). -/
def State.setTemp (v : FpVal) (s : State) : State := { s with temp := .holds v }

/-- `RAW_H = c` inside CONVERT (R86). -/
def State.setRawH (c : Code) (s : State) : State := { s with rawH := c }

/-- `RAW_T = c` inside CONVERT (R87). -/
def State.setRawT (c : Code) (s : State) : State := { s with rawT := c }

/-- The end of CONVERT: its local values are gone (R17, log 6). -/
def State.dropCodes (s : State) : State := { s with rawH := Config.noCodeH, rawT := Config.noCodeT }

/-! ## Sequencing -/

/-- One meaning after another inside one transition (R14). -/
def andThen (r : Result) (k : State → Result) : Result :=
  match r with
  | .next s => k s
  | .fault f => .fault f
  | .refused f => .refused f

/-! ## Requests -/

/-- Issue a bus request: the first half of `BusRead` and `BusWrite` (R59, R60). No retry, no wait. -/
def State.issueBus (r : BusRequest) (s : State) : State := s.emit (.bus r)

/-- Issue the delay request: the first half of `Delay(80)` (R62). -/
def State.issueDelay (s : State) : State := s.emit (.delay delayMs)

/-- A wire transaction of the table: its address is ADDR, or it is never emitted (R42, R53). -/
def wireTransaction (a : Addr) (r : BusRequest) (s : State) : Result :=
  if a = s.addr then .next (s.issueBus r) else .refused .foreignAddress

/-! ## Failure entry and return (R96, R97) -/

/-- `raise TransportError(e)` (R96): nothing else is saved and no request is issued. -/
def State.raiseTransportError (e : TransportErr) (s : State) : State :=
  { s with errKind := .holds errTransport, errVal := .holds e, seq := seqFailed }

/-- The return to IDLE from DONE or FAILED (R80, R97). From here on the registers of the READ are
unspecified, so each holds its free value (R24, R84, C5; log 5). -/
def State.returnToIdle (s : State) : State :=
  { s with
    seq := seqIdle, frame := unwrittenFrame, hum := unwrittenHum s.fmt, temp := unwrittenTemp s.fmt,
    errKind := unwrittenErrKind, errVal := unwrittenErrVal }

/-- Present a response and, when the host accepts it, return to IDLE (R80, R97, D12). -/
def respond (r : HostResponse) (s : State) : Result :=
  if s.now.accept then .next ((s.emit r.event).returnToIdle) else .next s

/-! ## Bus responses (R43) -/

/-- The second half of `BusRead` and `BusWrite` (R59, R60): without a response the block waits; a failure
goes out unchanged; a success gives its bytes to `k`. -/
def onBusResponse (k : List Byte → State → Result) (s : State) : Result :=
  match s.now.bus with
  | none => .next s
  | some (.fail e) => .next ((s.emit (.busFail e)).raiseTransportError e)
  | some (.ok bs) => k bs (s.emit (.busOk bs))

/-- A response to a write carries nothing (R43). -/
def onWriteResponse (k : State → State) (s : State) : Result :=
  onBusResponse (fun bs t => match bs with | [] => .next (k t) | _ :: _ => .refused .responseLength) s

/-! ## READ and reset -/

/-- Accept READ (R76): go to CHECK_CAL and issue `RD_STATUS`. -/
def State.acceptRead (s : State) : State :=
  ((s.emit .read).goto seqCheckCal).issueBus (rdStatusRequest s.addr)

/-- Requests a reset leaves unanswered: the outstanding one, unless its answer arrives in the step of the
reset, where the reset takes precedence over it (R111; log 8). -/
def State.abandonedBus (s : State) : Nat := if s.awaitsBus && s.now.bus.isNone then 1 else 0

/-- The delay a reset leaves uncompleted (R111; log 8). -/
def State.abandonedDelay (s : State) : Nat := if s.awaitsDelay && !s.now.delay then 1 else 0

/-- Reset with `addr_in = a` (R109, R111): the values of R29; nothing is issued and nothing answered. -/
def State.resetTo (a : Addr) (s : State) : State :=
  { State.afterReset a s.fmt with
    env := s.env
    owedBus := s.owedBus + s.abandonedBus
    owedDelay := s.owedDelay + s.abandonedDelay
    trace := s.trace ++ [.reset a]
    logOut := s.logOut }

/-! ## The choice of the next instruction -/

/-- An input the environment owes the block not to send (D25, I12; log 9). -/
def State.breach (s : State) : Option Refusal :=
  if s.now.bus.isSome && !s.awaitsBus then some .unrequestedBusResponse
  else if s.now.lateBus.isSome && s.owedBus == 0 then some .unrequestedBusResponse
  else if s.now.delay && !s.awaitsDelay then some .unrequestedDelayCompletion
  else if s.now.lateDelay && s.owedDelay == 0 then some .unrequestedDelayCompletion
  else none

/-- The instruction of the present step: RESET if reset is applied, which takes precedence (R100, R111),
else the micro-operation that SEQ names (R18). A reserved code stops the machine whatever arrives
(R52; log 10). -/
def State.fetch (s : State) : Host.Outcome Instr Fault Refusal :=
  match decodeSeq s.seq.toNat with
  | .error _ => .fault .badSeq
  | .ok i =>
    match s.now.reset with
    | some a => .next (.reset a)
    | none =>
      match s.breach with
      | some r => .refused r
      | none => .next i

/-- The end of a step in which `i` was on the ports: the inputs are used up, and a late answer is
discarded (R111). -/
def State.advance (i : Inputs) (s : State) : State :=
  { s with
    env := s.env.tail
    owedBus := s.owedBus - (if i.lateBus.isSome then 1 else 0)
    owedDelay := s.owedDelay - (if i.lateDelay then 1 else 0) }

/-! ## The selection of a given instruction (log 15) -/

/-- The present step's inputs, replaced. -/
def State.present (i : Inputs) (s : State) : State := { s with env := i :: s.env.tail }

/-- SEQ at `c`, with those of the present inputs that the block may receive there. -/
def State.selectSeq (c : BitVec 4) (s : State) : State :=
  let t := s.goto c
  t.present
    { read := s.now.read
      accept := s.now.accept
      bus := if t.awaitsBus then s.now.bus else none
      delay := t.awaitsDelay && s.now.delay }

/-- SEQ at `c` with the bus response that makes the micro-operation there issue its request. -/
def State.selectAnswered (c : BitVec 4) (a : Addr) (bs : List Byte) (s : State) : State :=
  ({ s with addr := a }.goto c).present { bus := some (.ok bs) }

/-- The state in which the next step runs `i`: SEQ and the inputs that select it. A wire transaction, the delay and the log
event run inside the transition that issues them (R61 to R68), the sub-operations inside CONVERT. -/
def State.select (i : Instr) (s : State) : State :=
  match i with
  | .read => (s.goto seqIdle).present { read := true }
  | .reset a =>
    (match decodeSeq s.seq.toNat with
      | .ok _ => s
      | .error _ => s.goto seqIdle).present { s.now with reset := some a }
  | .idle => s.selectSeq seqIdle
  | .checkCal => s.selectSeq seqCheckCal
  | .cal1B => s.selectSeq seqCal1B
  | .cal1C => s.selectSeq seqCal1C
  | .cal1E => s.selectSeq seqCal1E
  | .trigger => s.selectSeq seqTrigger
  | .wait => s.selectSeq seqWait
  | .readData => s.selectSeq seqReadData
  | .convert => s.selectSeq seqConvert
  | .done => s.selectSeq seqDone
  | .failed => s.selectSeq seqFailed
  | .rdStatus a => ({ s with addr := a }.goto seqIdle).present { read := true }
  | .rdFrame a => ({ s with addr := a }.goto seqWait).present { delay := true }
  | .wrCal1B a => s.selectAnswered seqCheckCal a [0x00]
  | .wrCal1C a => s.selectAnswered seqCal1B a []
  | .wrCal1E a => s.selectAnswered seqCal1C a []
  | .wrTrig a => s.selectAnswered seqCal1E a []
  | .dly80 => s.selectAnswered seqTrigger s.addr []
  | .logCal => s.selectAnswered seqCheckCal s.addr [0x00]
  | .extractH => s.selectSeq seqConvert
  | .extractT => s.selectSeq seqConvert
  | .convH => s.selectSeq seqConvert
  | .convT => s.selectSeq seqConvert

end Sys2Proof.Machine
end

