-- ==== Sys2Proof/Machine/Transactions.lean ====
section
/-! DEFINITION. The wire transactions, the delay request and the log event (40_transactions.md). Each issues its
request; the micro-operation that waits for the answer is in Calibration.lean or Measurement.lean. -/

namespace Sys2Proof.Machine

/-- `RD_STATUS` (R61). -/
def execRdStatus (a : Addr) (s : State) : Result := wireTransaction a (rdStatusRequest a) s

/-- `RD_FRAME` (R64). -/
def execRdFrame (a : Addr) (s : State) : Result := wireTransaction a (rdFrameRequest a) s

/-- `WR_CAL_1B` (R65). -/
def execWrCal1B (a : Addr) (s : State) : Result := wireTransaction a (wrCal1BRequest a) s

/-- `WR_CAL_1C` (R66). -/
def execWrCal1C (a : Addr) (s : State) : Result := wireTransaction a (wrCal1CRequest a) s

/-- `WR_CAL_1E` (R67). -/
def execWrCal1E (a : Addr) (s : State) : Result := wireTransaction a (wrCal1ERequest a) s

/-- `WR_TRIG` (R68). -/
def execWrTrig (a : Addr) (s : State) : Result := wireTransaction a (wrTrigRequest a) s

/-- `DLY_80` (R62). -/
def execDly80 (s : State) : Result := .next s.issueDelay

/-- `LOG_CAL` (R63): one event, no response, no wait. -/
def execLogCal (s : State) : Result := .next s.emitLog

end Sys2Proof.Machine
end

