-- ==== Sys2Proof/Machine/Calibration.lean ====
section
/-! DEFINITION. The calibration check (41_calibration.md). -/

namespace Sys2Proof.Machine

/-- CHECK_CAL after a status byte (R69): trigger at once if calibrated, else log and first write. -/
def afterStatus (status : Byte) (s : State) : State :=
  if calOk status then (s.goto seqTrigger).issueBus (wrTrigRequest s.addr)
  else (s.emitLog.goto seqCal1B).issueBus (wrCal1BRequest s.addr)

/-- `CHECK_CAL` (R69). -/
def execCheckCal (s : State) : Result :=
  onBusResponse
    (fun bs t =>
      match bs with
      | [status] => .next (afterStatus status t)
      | [] => .refused .responseLength
      | _ :: _ :: _ => .refused .responseLength)
    s

/-- `CAL_1B` (R70): the second write follows the first. -/
def execCal1B (s : State) : Result :=
  onWriteResponse (fun t => (t.goto seqCal1C).issueBus (wrCal1CRequest t.addr)) s

/-- `CAL_1C` (R71): the third write follows the second. -/
def execCal1C (s : State) : Result :=
  onWriteResponse (fun t => (t.goto seqCal1E).issueBus (wrCal1ERequest t.addr)) s

/-- `CAL_1E` (R72): the trigger follows the third write at once. -/
def execCal1E (s : State) : Result :=
  onWriteResponse (fun t => (t.goto seqTrigger).issueBus (wrTrigRequest t.addr)) s

end Sys2Proof.Machine
end

