-- ==== Sys2Proof/Machine/Measurement.lean ====
section
/-! DEFINITION. READ, RESET and the measurement sequence (42_measurement.md, 60_exceptions.md, 70_reset_and_hazards.md). -/

namespace Sys2Proof.Machine

/-- READ: the host asserts its request (R76, R48). Outside IDLE it is not accepted and stays with the
host (R115). -/
def execRead (s : State) : Result :=
  if s.hostReady then .next s.acceptRead else .next s

/-- RESET (R109, R110): cannot fail. -/
def execReset (a : Addr) (s : State) : Result := .next (s.resetTo a)

/-- `IDLE` (R76): accept the READ the host asserts; without one, stay and issue nothing. -/
def execIdle (s : State) : Result :=
  if s.now.read then .next s.acceptRead else .next s

/-- `TRIGGER` (R77): the delay follows the trigger write. -/
def execTrigger (s : State) : Result :=
  onWriteResponse (fun t => (t.goto seqWait).issueDelay) s

/-- `WAIT` (R78): the data read follows the delay; no completion, no move (R113). -/
def execWait (s : State) : Result :=
  if s.now.delay then
    .next (((s.emit .delayDone).goto seqReadData).issueBus (rdFrameRequest s.addr))
  else .next s

/-- `READ_DATA` (R79): the frame is stored whole, unchecked (R83). -/
def execReadData (s : State) : Result :=
  onBusResponse
    (fun bs t =>
      match Frame.ofBytes bs with
      | some f => .next ((t.setFrame f).goto seqConvert)
      | none => .refused .responseLength)
    s

/-- `DONE` (R80): the Reading is presented, and held until the host accepts it. -/
def execDone (s : State) : Result :=
  respond (.ok s.temp.get s.hum.get) s

/-- `FAILED` (R97): the error is presented, and held until the host accepts it. -/
def execFailed (s : State) : Result :=
  respond s.errorResponse s

end Sys2Proof.Machine
end

