-- ==== Sys2Proof/Machine/Conversion.lean ====
section
/-! DEFINITION. Code extraction and format conversion (43_conversion.md). -/

namespace Sys2Proof.Machine

/-- `EXTRACT_H` (R86). -/
def execExtractH (s : State) : Result :=
  .next (s.setRawH (rawHOf s.frame.get))

/-- `EXTRACT_T` (R87). -/
def execExtractT (s : State) : Result :=
  .next (s.setRawT (rawTOf s.frame.get))

/-- `CONV_H` (R89). -/
def execConvH (s : State) : Result :=
  .next (s.setHum (humOf s.fmt s.rawH))

/-- `CONV_T` (R90). -/
def execConvT (s : State) : Result :=
  .next (s.setTemp (tempOf s.fmt s.rawT))

/-- `CONVERT` (R85): both codes, both results, then DONE. The two codes are local to the transition (R17),
so none is left; `execConvert_eq_subops` says that this is the four sub-operations in their order. -/
def execConvert (s : State) : Result :=
  .next (((s.setHum (humOf s.fmt (rawHOf s.frame.get))).setTemp
    (tempOf s.fmt (rawTOf s.frame.get))).dropCodes.goto seqDone)

end Sys2Proof.Machine
end

