-- ==== Sys2Proof/Machine/Dispatch.lean ====
section
/-! DEFINITION. One arm per instruction. -/

namespace Sys2Proof.Machine

def exec (i : Instr) (s : State) : Host.Outcome State Fault Refusal :=
  match i with
  -- host request and reset
  | .read => Sys2Proof.Machine.execRead s
  | .reset a => Sys2Proof.Machine.execReset a s
  -- one micro-operation per value of SEQ
  | .idle => Sys2Proof.Machine.execIdle s
  | .checkCal => Sys2Proof.Machine.execCheckCal s
  | .cal1B => Sys2Proof.Machine.execCal1B s
  | .cal1C => Sys2Proof.Machine.execCal1C s
  | .cal1E => Sys2Proof.Machine.execCal1E s
  | .trigger => Sys2Proof.Machine.execTrigger s
  | .wait => Sys2Proof.Machine.execWait s
  | .readData => Sys2Proof.Machine.execReadData s
  | .convert => Sys2Proof.Machine.execConvert s
  | .done => Sys2Proof.Machine.execDone s
  | .failed => Sys2Proof.Machine.execFailed s
  -- wire transactions, delay, log
  | .rdStatus a => Sys2Proof.Machine.execRdStatus a s
  | .rdFrame a => Sys2Proof.Machine.execRdFrame a s
  | .wrCal1B a => Sys2Proof.Machine.execWrCal1B a s
  | .wrCal1C a => Sys2Proof.Machine.execWrCal1C a s
  | .wrCal1E a => Sys2Proof.Machine.execWrCal1E a s
  | .wrTrig a => Sys2Proof.Machine.execWrTrig a s
  | .dly80 => Sys2Proof.Machine.execDly80 s
  | .logCal => Sys2Proof.Machine.execLogCal s
  -- sub-operations of CONVERT
  | .extractH => Sys2Proof.Machine.execExtractH s
  | .extractT => Sys2Proof.Machine.execExtractT s
  | .convH => Sys2Proof.Machine.execConvH s
  | .convT => Sys2Proof.Machine.execConvT s

end Sys2Proof.Machine
end

