-- ==== Sys2Proof/Machine/Step.lean ====
section
/-! DEFINITION. One step: choose the instruction, run it, use up the step's inputs. -/

namespace Sys2Proof.Machine

/-- One transition of the block (R5, R14), or one step of waiting for an input (R108, R113). -/
def step (s : State) : Host.Outcome State Fault Refusal :=
  match s.fetch with
  | .next i => andThen (exec i s) fun t => .next (t.advance s.now)
  | .fault f => .fault f
  | .refused r => .refused r

/-- `s` with the instruction of the table word `w` selected, so that the next step runs it. The block
fetches nothing (R40): what selects an instruction is SEQ and the inputs (log 15). -/
def State.withFetchWord (s : State) (nbits w : Nat) : State :=
  match decodeTableWord nbits w with
  | some i => s.select i
  | none => s

end Sys2Proof.Machine
end

