-- ==== Sys2Proof/Machine/FloatValue.lean ====
section
/-! DEFINITION. The rational number a floating-point value stands for: what claims about results are stated in. -/

namespace Sys2Proof

/-- The exact value of a finite floating-point number; none for an infinity or a NaN. -/
def FpVal.value (v : FpVal) : Option ℚ :=
  match v.unpack with
  | .fin neg m e => some ((if neg then -1 else 1) * (m : ℚ) * (2 : ℚ) ^ e)
  | .inf _ => none
  | .nan => none

end Sys2Proof
end

