-- ==== Sys2Proof/Safety.lean ====
section
/-! DEFINITION. What counts as a safe run: the invariants of the block and the two relations that claims about
what it does not look at are stated in. -/

namespace Sys2Proof.Machine

/-! ## The registers -/

/-- The invariant of the registers. -/
structure State.Inv (s : State) : Prop where
  /-- SEQ holds one of the eleven codes (R18, R52). -/
  seqLegal : s.seq.toNat ≤ 0xA
  /-- In CONVERT a frame is there (R22, R79). -/
  frameReady : s.seq = 0x8 → ∃ f, s.frame = .holds f
  /-- In DONE both results are those of the frame that was read (R80, R82). -/
  readingReady : s.seq = 0x9 → ∃ f, s.frame = .holds f ∧
    s.hum = .holds (humOf s.fmt (rawHOf f)) ∧ s.temp = .holds (tempOf s.fmt (rawTOf f))
  /-- In FAILED the error is there and is a transport error (R95, R96). -/
  errorReady : s.seq = 0xA → s.errKind = .holds 0 ∧ ∃ e, s.errVal = .holds e
  /-- `READ_TOO_FAST` is never recorded (R98). -/
  noTooFast : s.errKind ≠ .holds 1
  /-- The result registers are in the one format of the block (R24). -/
  oneFormat : s.hum.get.format = s.fmt ∧ s.temp.get.format = s.fmt
  /-- The codes exist inside CONVERT only (R17, log 6). -/
  codesLocal : s.rawH = Config.noCodeH ∧ s.rawT = Config.noCodeT

/-! ## The protocol on the wire (R73, R75, R81, R82, R100) -/

/-- A READ up to its status read. -/
def askedStatus (a : Addr) : List Event := [.read, .bus ⟨1, a, 1, []⟩]

/-- A READ whose status byte `b` fails the mask, up to the first calibration write. -/
def firstWrite (a : Addr) (b : Byte) : List Event :=
  askedStatus a ++ [.busOk [b], .bus ⟨0, a, 3, [0x1B, 0x00, 0x00]⟩]

/-- The same up to the second calibration write. -/
def secondWrite (a : Addr) (b : Byte) : List Event :=
  firstWrite a b ++ [.busOk [], .bus ⟨0, a, 3, [0x1C, 0x00, 0x00]⟩]

/-- The same up to the third calibration write. -/
def thirdWrite (a : Addr) (b : Byte) : List Event :=
  secondWrite a b ++ [.busOk [], .bus ⟨0, a, 3, [0x1E, 0x00, 0x00]⟩]

/-- The calibration check passed: at once, or by three successful writes (R73, R75). -/
def Calibrated (a : Addr) (l : List Event) : Prop :=
  (∃ b : Byte, b &&& 0x18 = 0x18 ∧ l = askedStatus a ++ [.busOk [b]]) ∨
  (∃ b : Byte, b &&& 0x18 ≠ 0x18 ∧ l = thirdWrite a b ++ [.busOk []])

/-- A READ that has come as far as the request SEQ waits on (R18, R81). -/
def Underway (a : Addr) (seq : BitVec 4) (l : List Event) : Prop :=
  match seq with
  | 0x1 => l = askedStatus a
  | 0x2 => ∃ b : Byte, b &&& 0x18 ≠ 0x18 ∧ l = firstWrite a b
  | 0x3 => ∃ b : Byte, b &&& 0x18 ≠ 0x18 ∧ l = secondWrite a b
  | 0x4 => ∃ b : Byte, b &&& 0x18 ≠ 0x18 ∧ l = thirdWrite a b
  | 0x5 => ∃ c, Calibrated a c ∧ l = c ++ [.bus ⟨0, a, 3, [0xAC, 0x33, 0x00]⟩]
  | 0x6 => ∃ c, Calibrated a c ∧
      l = c ++ [.bus ⟨0, a, 3, [0xAC, 0x33, 0x00]⟩, .busOk [], .delay 80]
  | 0x7 => ∃ c, Calibrated a c ∧
      l = c ++ [.bus ⟨0, a, 3, [0xAC, 0x33, 0x00]⟩, .busOk [], .delay 80, .delayDone,
        .bus ⟨1, a, 8, []⟩]
  | _ => False

/-- A READ that delivered the frame `f` (R82). -/
def Delivered (a : Addr) (f : Frame) (l : List Event) : Prop :=
  ∃ m, Underway a 0x7 m ∧ l = m ++ [.busOk f.bytes]

/-- A READ that failed with `e` at one of its bus transactions, after which nothing was issued (R81, R96). -/
def FailedWith (a : Addr) (e : TransportErr) (l : List Event) : Prop :=
  ∃ q m, q ≠ 0x6 ∧ Underway a q m ∧ l = m ++ [.busFail e]

/-- The part of a READ that the trace may hold while SEQ is `seq`, with what FRAME and ERR_VAL then hold. -/
def State.InProgress (s : State) (l : List Event) : Prop :=
  match s.seq with
  | 0x0 => l = []
  | 0x8 => ∃ f, s.frame = .holds f ∧ Delivered s.addr f l
  | 0x9 => ∃ f, s.frame = .holds f ∧ Delivered s.addr f l
  | 0xA => ∃ e, s.errVal = .holds e ∧ FailedWith s.addr e l
  | _ => Underway s.addr s.seq l

/-- A READ cut off anywhere, or none (R111). -/
def Partial (a : Addr) (l : List Event) : Prop :=
  l = [] ∨ (∃ q, Underway a q l) ∨ (∃ f, Delivered a f l) ∨ ∃ e, FailedWith a e l

/-- Traces of a block that is back in IDLE at address `a`: resets, each cutting off at most one READ,
READs that ended in the Reading of their own frame (R82), and READs that ended in the first failure
(R81, R100). -/
inductive History (fmt : FpFormat) : Addr → List Event → Prop where
  | start (a : Addr) : History fmt a []
  | reset {b : Addr} {h l : List Event} (a : Addr) :
      History fmt b h → Partial b l → History fmt a (h ++ l ++ [.reset a])
  | reading {a : Addr} {h l : List Event} {f : Frame} :
      History fmt a h → Delivered a f l →
      History fmt a (h ++ l ++ [.respOk (tempOf fmt (rawTOf f)) (humOf fmt (rawHOf f))])
  | error {a : Addr} {h l : List Event} {e : TransportErr} :
      History fmt a h → FailedWith a e l → History fmt a (h ++ l ++ [.respErr e])

/-- The whole trace keeps to the protocol, and SEQ stands where the trace ends. -/
def State.Conforms (s : State) : Prop :=
  ∃ h l, s.trace = h ++ l ∧ History s.fmt s.addr h ∧ s.InProgress l

/-- The requests among some events, in order. -/
def requestsIn (l : List Event) : List Request :=
  l.filterMap fun
    | .bus r => some (.bus r)
    | .delay ms => some (.delay ms)
    | .reset _ | .read | .busOk _ | .busFail _ | .delayDone | .respOk _ _ | .respErr _
    | .respTooFast => none

/-- The six bus requests of the table at address `a` (R53). -/
def tableRequests (a : Addr) : List BusRequest :=
  [⟨1, a, 1, []⟩, ⟨1, a, 8, []⟩, ⟨0, a, 3, [0x1B, 0x00, 0x00]⟩, ⟨0, a, 3, [0x1C, 0x00, 0x00]⟩,
    ⟨0, a, 3, [0x1E, 0x00, 0x00]⟩, ⟨0, a, 3, [0xAC, 0x33, 0x00]⟩]

/-! ## What the block does not look at -/

/-- The two states agree but for registers that no transition from here reads before one writes them:
FRAME counts in CONVERT only, the results in DONE only, the error in FAILED only (R22, R24, R25, R84). -/
structure SameWhereRead (s t : State) : Prop where
  seq : s.seq = t.seq
  addr : s.addr = t.addr
  fmt : s.fmt = t.fmt
  env : s.env = t.env
  owedBus : s.owedBus = t.owedBus
  owedDelay : s.owedDelay = t.owedDelay
  trace : s.trace = t.trace
  logOut : s.logOut = t.logOut
  frame : s.seq = 0x8 → s.frame = t.frame
  reading : s.seq = 0x9 → s.temp = t.temp ∧ s.hum = t.hum
  error : s.seq = 0xA → s.errKind = t.errKind ∧ s.errVal = t.errVal

/-- The two registers hold the same, or neither has been written. -/
def Reg.SameIfWritten {α : Type} (a b : Reg α) : Prop :=
  a = b ∨ ((∃ v, a = .unwritten v) ∧ ∃ w, b = .unwritten w)

/-- The two states agree but for the free values of unwritten registers (R29, log 5). -/
structure SameIfWritten (s t : State) : Prop where
  seq : s.seq = t.seq
  addr : s.addr = t.addr
  fmt : s.fmt = t.fmt
  env : s.env = t.env
  owedBus : s.owedBus = t.owedBus
  owedDelay : s.owedDelay = t.owedDelay
  trace : s.trace = t.trace
  logOut : s.logOut = t.logOut
  codes : s.rawH = t.rawH ∧ s.rawT = t.rawT
  frame : s.frame.SameIfWritten t.frame
  hum : s.hum.SameIfWritten t.hum
  temp : s.temp.SameIfWritten t.temp
  errKind : s.errKind.SameIfWritten t.errKind
  errVal : s.errVal.SameIfWritten t.errVal

/-- Both stop for the same reason, or both go on to states that are related by `r`. -/
def SameOutcome (r : State → State → Prop) : Result → Result → Prop
  | .next s, .next t => r s t
  | .fault f, .fault g => f = g
  | .refused f, .refused g => f = g
  | _, _ => False

/-- A register with its content renamed, where a transition wrote it. -/
def Reg.map {α : Type} (g : α → α) : Reg α → Reg α
  | .unwritten v => .unwritten v
  | .holds v => .holds (g v)

/-- A bus response with the transport's error values renamed. -/
def BusResponse.rename (g : TransportErr → TransportErr) : BusResponse → BusResponse
  | .ok bs => .ok bs
  | .fail e => .fail (g e)

/-- A step's inputs with the transport's error values renamed. -/
def Inputs.rename (g : TransportErr → TransportErr) (i : Inputs) : Inputs :=
  { i with bus := i.bus.map (BusResponse.rename g), lateBus := i.lateBus.map (BusResponse.rename g) }

/-- A trace line with the transport's error values renamed. -/
def Event.rename (g : TransportErr → TransportErr) : Event → Event
  | .busFail e => .busFail (g e)
  | .respErr e => .respErr (g e)
  | .reset a => .reset a
  | .read => .read
  | .bus r => .bus r
  | .delay ms => .delay ms
  | .busOk bs => .busOk bs
  | .delayDone => .delayDone
  | .respOk t h => .respOk t h
  | .respTooFast => .respTooFast

/-- The state in a world whose transport calls its errors by other names. -/
def State.rename (g : TransportErr → TransportErr) (s : State) : State :=
  { s with
    errVal := s.errVal.map g
    env := s.env.map (Inputs.rename g)
    trace := s.trace.map (Event.rename g) }

/-- An outcome with the transport's error values renamed. -/
def renameOutcome (g : TransportErr → TransportErr) : Result → Result
  | .next s => .next (s.rename g)
  | .fault f => .fault f
  | .refused r => .refused r

end Sys2Proof.Machine
end

