-- ==== Sys2Proof/Certificates/Slice0/Obligations.lean ====
section
/-! DEFINITION. The statements for the provers. -/

open Sys2Proof Sys2Proof.Machine

/-! ## Encodings -/

/-- Words written out from 30_encoding.md and 95_test_vectors.md V1 (ADDR = 0x38, 0x00, 0x7F) decode to the
instructions they stand for, in their own encoding space. -/
def Obligations.DecodeReadsTheTablesWords : Prop :=
  decodeWord .busRead 0xB81 = .ok (.rdStatus 0x38) ∧
  decodeWord .busRead 0x801 = .ok (.rdStatus 0x00) ∧
  decodeWord .busRead 0xFF1 = .ok (.rdStatus 0x7F) ∧
  decodeWord .busRead 0xB88 = .ok (.rdFrame 0x38) ∧
  decodeWord .busWrite 0x3831B0000 = .ok (.wrCal1B 0x38) ∧
  decodeWord .busWrite 0x3831C0000 = .ok (.wrCal1C 0x38) ∧
  decodeWord .busWrite 0x3831E0000 = .ok (.wrCal1E 0x38) ∧
  decodeWord .busWrite 0x383AC3300 = .ok (.wrTrig 0x38) ∧
  decodeWord .delayRequest 0x0050 = .ok .dly80 ∧
  decodeWord .hostRequest 1 = .ok .read ∧
  decodeWord .logEvent 1 = .ok .logCal ∧
  decodeWord .reset 0x39 = .ok (.reset 0x39)

/-- R51: the code of every sequencer state and the label of every sub-step of CONVERT. -/
def Obligations.SeqCodesNameTheirMicroOperations : Prop :=
  decodeWord .seqState 0x0 = .ok .idle ∧ decodeWord .seqState 0x1 = .ok .checkCal ∧
  decodeWord .seqState 0x2 = .ok .cal1B ∧ decodeWord .seqState 0x3 = .ok .cal1C ∧
  decodeWord .seqState 0x4 = .ok .cal1E ∧ decodeWord .seqState 0x5 = .ok .trigger ∧
  decodeWord .seqState 0x6 = .ok .wait ∧ decodeWord .seqState 0x7 = .ok .readData ∧
  decodeWord .seqState 0x8 = .ok .convert ∧ decodeWord .seqState 0x9 = .ok .done ∧
  decodeWord .seqState 0xA = .ok .failed ∧
  decodeWord .convertSubop (0x8 * 4 + 0) = .ok .extractH ∧
  decodeWord .convertSubop (0x8 * 4 + 1) = .ok .extractT ∧
  decodeWord .convertSubop (0x8 * 4 + 2) = .ok .convH ∧
  decodeWord .convertSubop (0x8 * 4 + 3) = .ok .convT

/-- In every encoding space the decoder accepts exactly the encodings of that space's instructions, and
each gives its instruction back, operands included. -/
def Obligations.DecodeAcceptsExactlyTheEncodings : Prop :=
  ∀ (f : Format) (bs : List Byte) (i : Instr),
    decode f bs = .ok i ↔ i.format = f ∧ encode i = bs

/-- The request a wire transaction puts on the port is, bit for bit, the table's encoding of it (R42, R44,
R45), at every address, and the delay request is the table's word (R47). -/
def Obligations.PortRequestsAreTheTablesEncodings : Prop :=
  (∀ a : Addr,
    (rdStatusRequest a).word = encodeWord (.rdStatus a) ∧
    (rdFrameRequest a).word = encodeWord (.rdFrame a) ∧
    (wrCal1BRequest a).word = encodeWord (.wrCal1B a) ∧
    (wrCal1CRequest a).word = encodeWord (.wrCal1C a) ∧
    (wrCal1ERequest a).word = encodeWord (.wrCal1E a) ∧
    (wrTrigRequest a).word = encodeWord (.wrTrig a)) ∧
  delayMs.toNat = encodeWord .dly80

/-! ## The step -/

/-- A step is exec of the instruction SEQ decodes to (R18), or of RESET while reset is applied (R109, R111),
and the step's inputs are used up. `breach` is the environment sending what nobody asked for (D25, log 9).
That a reset is the whole step also beside a READ and beside unrequested answers is the model's choice
(log 20), and so are the counts of owed answers that `breach` and `advance` use (log 8). -/
def Obligations.StepRunsTheDecodedInstruction : Prop :=
  (∀ (s : State) (i : Instr), decodeWord .seqState s.seq.toNat = .ok i → s.now.reset = none →
    s.breach = none → step s = andThen (exec i s) fun t => .next (t.advance s.now)) ∧
  (∀ (s : State) (i : Instr) (a : Addr), decodeWord .seqState s.seq.toNat = .ok i →
    s.now.reset = some a → step s = andThen (exec (.reset a) s) fun t => .next (t.advance s.now))

/-- R52: a reserved code stops the machine, and neither a transition nor reset produces one. -/
def Obligations.ReservedSeqCodesStopAndAreNeverWritten : Prop :=
  (∀ s : State, 0xB ≤ s.seq.toNat → step s = .fault .badSeq) ∧
  (∀ (i : Instr) (s t : State), s.seq.toNat ≤ 0xA → exec i s = .next t → t.seq.toNat ≤ 0xA) ∧
  State.reset.seq.toNat ≤ 0xA

/-! ## One instruction at a time -/

/-- R76: a READ asserted in IDLE is accepted and the status read is issued; nothing else changes. Without
one, or elsewhere than in IDLE (R115), the state stays as it is. -/
def Obligations.ReadIsAcceptedInIdleAndAsksForStatus : Prop :=
  ∀ s : State,
    (s.now.read = true → exec .idle s =
      .next { s with seq := 0x1, trace := s.trace ++ [.read, .bus ⟨1, s.addr, 1, []⟩] }) ∧
    (s.now.read = false → exec .idle s = .next s) ∧
    (s.seq = 0x0 → exec .read s =
      .next { s with seq := 0x1, trace := s.trace ++ [.read, .bus ⟨1, s.addr, 1, []⟩] }) ∧
    (s.seq ≠ 0x0 → exec .read s = .next s)

/-- R69: the branch on the calibration mask. The log event is on a list of its own, so nothing is said of
its place among the requests (D6). -/
def Obligations.CheckCalBranchesOnTheMask : Prop :=
  ∀ s : State,
    (∀ b : Byte, s.now.bus = some (.ok [b]) → b &&& 0x18 = 0x18 → exec .checkCal s =
      .next { s with
        seq := 0x5
        trace := s.trace ++ [.busOk [b], .bus ⟨0, s.addr, 3, [0xAC, 0x33, 0x00]⟩] }) ∧
    (∀ b : Byte, s.now.bus = some (.ok [b]) → b &&& 0x18 ≠ 0x18 → exec .checkCal s =
      .next { s with
        seq := 0x2
        trace := s.trace ++ [.busOk [b], .bus ⟨0, s.addr, 3, [0x1B, 0x00, 0x00]⟩]
        logOut := s.logOut ++ [.cal] }) ∧
    (∀ e, s.now.bus = some (.fail e) →
      exec .checkCal s = .next ((s.emit (.busFail e)).raiseTransportError e)) ∧
    (s.now.bus = none → exec .checkCal s = .next s)

/-- R70, R71, R72: each calibration write's success issues the next write, the third one's the trigger; a
failure raises the transport error; without a response the state stays as it is. -/
def Obligations.CalibrationWritesFollowOneAnother : Prop :=
  ∀ s : State,
    (s.now.bus = some (.ok []) → exec .cal1B s =
      .next { s with
        seq := 0x3
        trace := s.trace ++ [.busOk [], .bus ⟨0, s.addr, 3, [0x1C, 0x00, 0x00]⟩] }) ∧
    (s.now.bus = some (.ok []) → exec .cal1C s =
      .next { s with
        seq := 0x4
        trace := s.trace ++ [.busOk [], .bus ⟨0, s.addr, 3, [0x1E, 0x00, 0x00]⟩] }) ∧
    (s.now.bus = some (.ok []) → exec .cal1E s =
      .next { s with
        seq := 0x5
        trace := s.trace ++ [.busOk [], .bus ⟨0, s.addr, 3, [0xAC, 0x33, 0x00]⟩] }) ∧
    (∀ i, i = .cal1B ∨ i = .cal1C ∨ i = .cal1E →
      (∀ e, s.now.bus = some (.fail e) →
        exec i s = .next ((s.emit (.busFail e)).raiseTransportError e)) ∧
      (s.now.bus = none → exec i s = .next s))

/-- R77: the trigger write's success starts the 80 ms delay. -/
def Obligations.TriggerStartsTheDelay : Prop :=
  ∀ s : State,
    (s.now.bus = some (.ok []) → exec .trigger s =
      .next { s with seq := 0x6, trace := s.trace ++ [.busOk [], .delay 80] }) ∧
    (∀ e, s.now.bus = some (.fail e) →
      exec .trigger s = .next ((s.emit (.busFail e)).raiseTransportError e)) ∧
    (s.now.bus = none → exec .trigger s = .next s)

/-- R78: the delay's completion issues the data read; until then nothing happens. -/
def Obligations.DelayCompletionIssuesTheDataRead : Prop :=
  ∀ s : State,
    (s.now.delay = true → exec .wait s =
      .next { s with seq := 0x7, trace := s.trace ++ [.delayDone, .bus ⟨1, s.addr, 8, []⟩] }) ∧
    (s.now.delay = false → exec .wait s = .next s)

/-- R79: the frame is stored whole, byte i of the response in FRAME[i], with no check of any byte. -/
def Obligations.DataReadStoresTheFrameWhole : Prop :=
  ∀ s : State,
    (∀ b0 b1 b2 b3 b4 b5 b6 b7 : Byte,
      s.now.bus = some (.ok [b0, b1, b2, b3, b4, b5, b6, b7]) → exec .readData s =
        .next { s with
          seq := 0x8
          frame := .holds ⟨b0, b1, b2, b3, b4, b5, b6, b7⟩
          trace := s.trace ++ [.busOk [b0, b1, b2, b3, b4, b5, b6, b7]] }) ∧
    (∀ e, s.now.bus = some (.fail e) →
      exec .readData s = .next ((s.emit (.busFail e)).raiseTransportError e)) ∧
    (s.now.bus = none → exec .readData s = .next s)

/-- R96: what a failed transaction writes, in each of the six micro-operations that can meet one (R95);
everything else, the request and log outputs among it, is as before. Nor does FAILED issue anything, so
the failing transaction is the last of its READ. -/
def Obligations.FailureEntryRecordsTheErrorAndIssuesNothing : Prop :=
  (∀ (s : State) (e : TransportErr) (i : Instr), s.now.bus = some (.fail e) →
    i = .checkCal ∨ i = .cal1B ∨ i = .cal1C ∨ i = .cal1E ∨ i = .trigger ∨ i = .readData →
    exec i s = .next { s with
      seq := 0xA, errKind := .holds 0, errVal := .holds e, trace := s.trace ++ [.busFail e] }) ∧
  ∀ s t : State, exec .failed s = .next t →
    ∃ new, t.trace = s.trace ++ new ∧ requestsIn new = [] ∧ t.logOut = s.logOut

/-- CONVERT on the frame it finds, as R85 says. The model's choices are that an unwritten FRAME gives its free
value (log 5) and that the fields of the two local codes, which are no registers (R17), hold their free
value afterwards (log 6). -/
def Obligations.ConvertWritesTheReading : Prop :=
  ∀ s : State, exec .convert s =
    .next { s with
      seq := 0x9
      hum := .holds (humOf s.fmt (rawHOf s.frame.get))
      temp := .holds (tempOf s.fmt (rawTOf s.frame.get))
      rawH := Config.noCodeH
      rawT := Config.noCodeT }

/-- EXTRACT_H and EXTRACT_T as R86 and R87 say: the codes are the bit fields of the frame, most significant
byte first; the shared byte's high nibble ends the one and its low nibble begins the other. The model's
choices are that an unwritten FRAME gives its free value (log 5) and that each code stands in a field of the
model's own (log 6). -/
def Obligations.ExtractionTakesTheFramesBitFields : Prop :=
  ∀ (s : State) (f : Frame), s.frame.get = f →
    exec .extractH s = .next { s with rawH := f.b1 ++ f.b2 ++ f.b3.extractLsb' 4 4 } ∧
    exec .extractT s = .next { s with rawT := f.b3.extractLsb' 0 4 ++ f.b4 ++ f.b5 }

/-- As R89 and R90 say: one multiply, and one multiply and one subtract, each rounded on its own. The constants are
the values nearest to 25 × 2^-18, 25 × 2^-17 and 50 (R91). Then the corner cases the two rules name, as bit
patterns (95_test_vectors.md V4 rows 2, 3, 4); no humidity reaches 100, and the temperature is negative
exactly for codes below 0x40000. The codes stand in fields of the
model's own, which hold a free value where no extraction has given one: the model's choice (log 6). -/
def Obligations.ConversionMultipliesThenSubtracts : Prop :=
  (∀ s : State,
    exec .convH s = .next { s with
      hum := .holds (s.fmt.fmul (s.fmt.fp s.rawH.toNat) (s.fmt.round false 25 (-18))) } ∧
    exec .convT s = .next { s with
      temp := .holds (s.fmt.fsub (s.fmt.fmul (s.fmt.fp s.rawT.toNat) (s.fmt.round false 25 (-17)))
        (s.fmt.fp 50)) }) ∧
  humOf .binary64 0x00000 = .b64 0x0000000000000000 ∧ humOf .binary32 0x00000 = .b32 0x00000000 ∧
  humOf .binary64 0xFFFFF = .b64 0x4058FFFE70000000 ∧ humOf .binary32 0xFFFFF = .b32 0x42C7FFF4 ∧
  humOf .binary64 0x80000 = .b64 0x4049000000000000 ∧ humOf .binary32 0x80000 = .b32 0x42480000 ∧
  tempOf .binary64 0x00000 = .b64 0xC049000000000000 ∧ tempOf .binary32 0x00000 = .b32 0xC2480000 ∧
  tempOf .binary64 0x40000 = .b64 0x0000000000000000 ∧ tempOf .binary32 0x40000 = .b32 0x00000000 ∧
  tempOf .binary64 0xFFFFF = .b64 0x4062BFFE70000000 ∧ tempOf .binary32 0xFFFFF = .b32 0x4315FFF4 ∧
  ∀ (f : FpFormat) (c : Code),
    (∃ h : ℚ, (humOf f c).value = some h ∧ h < 100) ∧
    (∃ t : ℚ, (tempOf f c).value = some t ∧ (t < 0 ↔ c.toNat < 0x40000)) ∧
    (f.signOf (tempOf f c).pattern = true ↔ c.toNat < 0x40000)

/-- The model's choice (log 5): no instruction ends in a fault, in any state, so that reading a register that
no transition has written stops nothing; it gives the register's free value. -/
def Obligations.NoInstructionFaults : Prop :=
  ∀ (i : Instr) (s : State) (x : Fault), exec i s ≠ .fault x

/-- DONE as R80 says: the Reading is presented with kind 0, held while the host does not accept, and on accept
the block is in IDLE. That an unwritten TEMP or HUM gives its free value is the model's choice (log 5). What
the READ's own registers hold after the accept is said elsewhere (R84). -/
def Obligations.DonePresentsTheReadingUntilAccepted : Prop :=
  ∀ (s : State) (t h : FpVal), s.temp.get = t → s.hum.get = h →
    (s.seq = 0x9 → s.response = some (.ok t h) ∧ (HostResponse.ok t h).kind = 0) ∧
    (s.now.accept = false → exec .done s = .next s) ∧
    (s.now.accept = true → ∃ u, exec .done s = .next u ∧ u.seq = 0x0 ∧ u.addr = s.addr ∧
      u.fmt = s.fmt ∧ u.env = s.env ∧ u.rawH = s.rawH ∧ u.rawT = s.rawT ∧
      u.owedBus = s.owedBus ∧ u.owedDelay = s.owedDelay ∧ u.logOut = s.logOut ∧
      u.trace = s.trace ++ [.respOk t h])

/-- FAILED as R97 says: the error is presented with kind 1 and its value unchanged, held while the host does not
accept, and on accept the block is in IDLE. That an unwritten ERR_KIND or ERR_VAL gives its free value is
the model's choice (log 5). The kind that no transition writes (R98) has a statement of its own,
UnraisedErrorKindIsPresentedWithoutAValue. -/
def Obligations.FailedPresentsTheErrorUntilAccepted : Prop :=
  ∀ (s : State) (e : TransportErr), s.errKind.get = 0 → s.errVal.get = e →
    (s.seq = 0xA → s.response = some (.transport e) ∧ (HostResponse.transport e).kind = 1) ∧
    (s.now.accept = false → exec .failed s = .next s) ∧
    (s.now.accept = true → ∃ u, exec .failed s = .next u ∧ u.seq = 0x0 ∧ u.addr = s.addr ∧
      u.fmt = s.fmt ∧ u.env = s.env ∧ u.rawH = s.rawH ∧ u.rawT = s.rawT ∧
      u.owedBus = s.owedBus ∧ u.owedDelay = s.owedDelay ∧ u.logOut = s.logOut ∧
      u.trace = s.trace ++ [.respErr e])

/-- The model's choice (log 19, DEDUCED from R50): with ERR_KIND = 1, which no transition writes (R98), FAILED
presents a response of kind 1 that carries no value, holds it and returns to IDLE on accept. R50 says of
the case that it does not arise; nor does an unwritten ERR_KIND, whose free value may be 1 (log 5). -/
def Obligations.UnraisedErrorKindIsPresentedWithoutAValue : Prop :=
  ∀ s : State, s.errKind.get = 1 →
    (s.seq = 0xA → s.response = some .readTooFast ∧ HostResponse.readTooFast.kind = 1) ∧
    (s.now.accept = false → exec .failed s = .next s) ∧
    (s.now.accept = true → ∃ u, exec .failed s = .next u ∧ u.seq = 0x0 ∧ u.addr = s.addr ∧
      u.fmt = s.fmt ∧ u.env = s.env ∧ u.rawH = s.rawH ∧ u.rawT = s.rawT ∧
      u.owedBus = s.owedBus ∧ u.owedDelay = s.owedDelay ∧ u.logOut = s.logOut ∧
      u.trace = s.trace ++ [.respTooFast])

/-- The model's choice (log 5) for what R84 leaves unspecified: after the return to IDLE the READ's registers are
unwritten and hold their free values, of which nothing is known. -/
def Obligations.ReturnToIdleUnwritesTheRegisters : Prop :=
  ∀ (i : Instr) (s u : State), i = .done ∨ i = .failed → s.now.accept = true →
    exec i s = .next u →
    u.frame = unwrittenFrame ∧ u.hum = unwrittenHum s.fmt ∧ u.temp = unwrittenTemp s.fmt ∧
    u.errKind = unwrittenErrKind ∧ u.errVal = unwrittenErrVal

/-- R61, R64 to R68, R62: a wire transaction at ADDR, and the delay request, put their one request on the
port; the log event of R63 goes to the log sink. Nothing else changes. -/
def Obligations.TransactionsIssueTheirOneRequest : Prop :=
  ∀ s : State,
    exec (.rdStatus s.addr) s = .next { s with trace := s.trace ++ [.bus ⟨1, s.addr, 1, []⟩] } ∧
    exec (.rdFrame s.addr) s = .next { s with trace := s.trace ++ [.bus ⟨1, s.addr, 8, []⟩] } ∧
    exec (.wrCal1B s.addr) s =
      .next { s with trace := s.trace ++ [.bus ⟨0, s.addr, 3, [0x1B, 0x00, 0x00]⟩] } ∧
    exec (.wrCal1C s.addr) s =
      .next { s with trace := s.trace ++ [.bus ⟨0, s.addr, 3, [0x1C, 0x00, 0x00]⟩] } ∧
    exec (.wrCal1E s.addr) s =
      .next { s with trace := s.trace ++ [.bus ⟨0, s.addr, 3, [0x1E, 0x00, 0x00]⟩] } ∧
    exec (.wrTrig s.addr) s =
      .next { s with trace := s.trace ++ [.bus ⟨0, s.addr, 3, [0xAC, 0x33, 0x00]⟩] } ∧
    exec .dly80 s = .next { s with trace := s.trace ++ [.delay 0x0050] } ∧
    exec .logCal s = .next { s with logOut := s.logOut ++ [.cal] }

/-- A request at another address is never emitted (R53). That the model refuses such a wire transaction, and
no other, is its own choice (log 17). -/
def Obligations.TransactionsAtAForeignAddressAreRefused : Prop :=
  ∀ (i : Instr) (s : State), i.wireAddr.isSome = true →
    (exec i s = .refused .foreignAddress ↔ i.wellFormed s.addr = false)

/-- A successful response with another number of bytes than the request asked for does not exist (R43, D7).
That the model refuses it is its own choice (log 9). -/
def Obligations.ResponsesOfAnotherLengthAreRefused : Prop :=
  ∀ (s : State) (bs : List Byte), s.now.bus = some (.ok bs) →
    (bs.length ≠ 1 → exec .checkCal s = .refused .responseLength) ∧
    (bs.length ≠ 8 → exec .readData s = .refused .responseLength) ∧
    (∀ i, i = .cal1B ∨ i = .cal1C ∨ i = .cal1E ∨ i = .trigger → bs ≠ [] →
      exec i s = .refused .responseLength)

/-! ## Reset -/

/-- The table of R29: the values after reset, for every `addr_in`, and the outputs that follow from them. That
an unwritten register holds a free value and can be read is the model's choice (log 5). -/
def Obligations.ResetGivesTheSpecsValues : Prop :=
  State.reset.addr = Config.addrIn ∧
  ∀ (a : Addr) (f : FpFormat) (s : State), s = State.afterReset a f ∨ (s = State.reset ∧ a = s.addr) →
    s.seq = 0x0 ∧ s.addr = a ∧ s.frame = unwrittenFrame ∧ s.hum = unwrittenHum s.fmt ∧
    s.temp = unwrittenTemp s.fmt ∧ s.errKind = unwrittenErrKind ∧ s.errVal = unwrittenErrVal ∧
    s.hostReady = true ∧ s.respValid = false

/-- RESET in any state, as R109 says: it issues no request and no log event, presents no response and cannot
fail (R110), and the five registers become unwritten. The free values that they (log 5) and the fields of
the local codes (log 6) then hold are the model's choice. -/
def Obligations.ResetTakesEffectFromAnyState : Prop :=
  ∀ (a : Addr) (s : State), ∃ t, exec (.reset a) s = .next t ∧
    t.addr = a ∧ t.seq = 0x0 ∧ t.frame = unwrittenFrame ∧ t.hum = unwrittenHum s.fmt ∧
    t.temp = unwrittenTemp s.fmt ∧ t.errKind = unwrittenErrKind ∧ t.errVal = unwrittenErrVal ∧
    t.rawH = Config.noCodeH ∧ t.rawT = Config.noCodeT ∧
    t.fmt = s.fmt ∧ t.env = s.env ∧ t.trace = s.trace ++ [.reset a] ∧ t.logOut = s.logOut ∧
    t.response = none

/-- A reset in the same step as other inputs is the whole step: no response, no request, no acceptance. For a
bus response, a completion and an accept that is R100 and R111. That a READ beside the reset is not accepted
and an unrequested answer beside it is no breach is the model's choice (log 20), and so is the count: the
request cut off is owed an answer unless that answer arrives in this very step (log 8). Late answers
beside the reset are in LateAnswersAreDiscarded. -/
def Obligations.ResetWinsOverEveryOtherInput : Prop :=
  ∀ (s : State) (a : Addr), s.seq.toNat ≤ 0xA → s.now.reset = some a →
    s.now.lateBus = none → s.now.lateDelay = false →
    ∃ t, step s = .next t ∧ t.seq = 0x0 ∧ t.addr = a ∧ t.response = none ∧
      t.trace = s.trace ++ [.reset a] ∧ t.logOut = s.logOut ∧ t.env = s.env.tail ∧
      (t.owedBus = s.owedBus + 1 ↔ (s.seq ∈ [0x1, 0x2, 0x3, 0x4, 0x5, 0x7] ∧ s.now.bus = none)) ∧
      (t.owedBus = s.owedBus ↔ ¬(s.seq ∈ [0x1, 0x2, 0x3, 0x4, 0x5, 0x7] ∧ s.now.bus = none)) ∧
      (t.owedDelay = s.owedDelay + 1 ↔ (s.seq = 0x6 ∧ s.now.delay = false)) ∧
      (t.owedDelay = s.owedDelay ↔ ¬(s.seq = 0x6 ∧ s.now.delay = false))

/-- R111: an answer to a request a reset abandoned is discarded, be it a bus response or a delay completion:
the step, a reset in it included, is that of the same state without it, but that one answer of its kind
fewer is owed. That late answers have lines of their own, and are counted, is the model's choice (log 8). -/
def Obligations.LateAnswersAreDiscarded : Prop :=
  ∀ (s : State) (i : Inputs) (rest : List Inputs) (n : Nat),
    (∀ r, i.lateBus = none →
      step { s with env := { i with lateBus := some r } :: rest, owedBus := n + 1 } =
        andThen (step { s with env := i :: rest, owedBus := n + 1 })
          fun t => .next { t with owedBus := t.owedBus - 1 }) ∧
    (i.lateDelay = false →
      step { s with env := { i with lateDelay := true } :: rest, owedDelay := n + 1 } =
        andThen (step { s with env := i :: rest, owedDelay := n + 1 })
          fun t => .next { t with owedDelay := t.owedDelay - 1 })

/-- D25, I12: the machine has no move for an answer nobody asked for: a bus response or a completion with no
request outstanding, and (log 8) a late one of which none is owed. The name of the refusal, and that the
bus lines are looked at first, are the model's choice (log 9). -/
def Obligations.UnrequestedAnswersAreRefused : Prop :=
  ∀ s : State, s.seq.toNat ≤ 0xA → s.now.reset = none →
    (s.now.bus.isSome = true → s.seq ∉ [0x1, 0x2, 0x3, 0x4, 0x5, 0x7] →
      step s = .refused .unrequestedBusResponse) ∧
    (s.now.lateBus.isSome = true → s.owedBus = 0 → step s = .refused .unrequestedBusResponse) ∧
    ((s.now.bus.isSome = true → s.seq ∈ [0x1, 0x2, 0x3, 0x4, 0x5, 0x7]) →
      (s.now.lateBus.isSome = true → s.owedBus ≠ 0) →
      (s.now.delay = true → s.seq ≠ 0x6 → step s = .refused .unrequestedDelayCompletion) ∧
      (s.now.lateDelay = true → s.owedDelay = 0 → step s = .refused .unrequestedDelayCompletion))

/-! ## Waiting -/

/-- R108: a wait goes on without limit, keeps all state and issues nothing, as long as no input arrives that
the block takes there: in IDLE no READ, in DONE and FAILED no accept, in WAIT no completion, elsewhere no
bus response. CONVERT alone does not wait. A READ asserted outside IDLE changes nothing (R76); that an
accept asserted outside DONE and FAILED changes nothing is the model's reading (log 11). -/
def Obligations.WaitsKeepAllState : Prop :=
  ∀ (s : State) (n : Nat), s.Inv → s.seq ≠ 0x8 →
    (∀ i ∈ s.env, i.reset = none ∧ i.bus = none ∧ i.delay = false ∧ i.lateBus = none ∧
      i.lateDelay = false ∧ (s.seq = 0x0 → i.read = false) ∧
      (s.seq = 0x9 ∨ s.seq = 0xA → i.accept = false)) →
    Sys2Proof.core.run n s = .next { s with env := s.env.drop n }

/-! ## The flag and the status outputs -/

/-- R21: CAL_OK is the mask test, true exactly when bits 3 and 4 are both 1. -/
def Obligations.CalOkIsBitsThreeAndFour : Prop :=
  ∀ b : Byte, (calOk b = true ↔ b &&& 0x18 = 0x18) ∧
    calOk b = (b.getLsbD 3 && b.getLsbD 4)

/-- R26: the two status outputs. -/
def Obligations.StatusOutputsFollowSeq : Prop :=
  ∀ s : State, (s.hostReady = true ↔ s.seq = 0x0) ∧
    (s.respValid = true ↔ s.seq = 0x9 ∨ s.seq = 0xA)

/-! ## Rules about the whole machine -/

/-- R19: ADDR is written by reset, verbatim and unchecked, and by nothing else, and every bus request is
issued at it. -/
def Obligations.AddrIsWrittenByResetOnly : Prop :=
  (∀ (a : Addr) (s : State), ∃ t, exec (.reset a) s = .next t ∧ t.addr = a) ∧
  ∀ (i : Instr) (s t : State), exec i s = .next t →
    ((∀ a, i ≠ .reset a) → t.addr = s.addr) ∧
    ∃ new, t.trace = s.trace ++ new ∧ ∀ r, .bus r ∈ new → r.addr = s.addr

/-- R17, R22, R24, R25: who may change which register: the frame of every instruction at once. Reset, and
the return to IDLE in DONE and FAILED (log 5), take the values away; apart from them FRAME is written
in READ_DATA, the results in CONVERT and its sub-operations, the error in failure entry. -/
def Obligations.EveryRegisterHasItsWriters : Prop :=
  ∀ (i : Instr) (s t : State), exec i s = .next t → (∀ a, i ≠ .reset a) → i ≠ .done →
    i ≠ .failed →
    (i ≠ .readData → t.frame = s.frame) ∧
    (i ≠ .convert → i ≠ .convH → t.hum = s.hum) ∧
    (i ≠ .convert → i ≠ .convT → t.temp = s.temp) ∧
    ((∀ e, s.now.bus ≠ some (.fail e)) → t.errKind = s.errKind ∧ t.errVal = s.errVal) ∧
    (i ∉ [.checkCal, .cal1B, .cal1C, .cal1E, .trigger, .readData] →
      t.errKind = s.errKind ∧ t.errVal = s.errVal) ∧
    (i ≠ .convert → i ≠ .extractH → t.rawH = s.rawH) ∧
    (i ≠ .convert → i ≠ .extractT → t.rawT = s.rawT) ∧
    t.fmt = s.fmt ∧ t.env = s.env ∧ t.owedBus = s.owedBus ∧ t.owedDelay = s.owedDelay ∧
    (i ∉ [.checkCal, .logCal] → t.logOut = s.logOut)

/-- R98: no instruction writes ERR_KIND = 1. -/
def Obligations.ReadTooFastIsNeverRaised : Prop :=
  ∀ (i : Instr) (s t : State), exec i s = .next t → t.errKind = .holds 1 → s.errKind = .holds 1

/-- R27, R37: a step that moves SEQ issues exactly the request the new SEQ waits on, if it waits on one, and
a step that leaves SEQ where it is issues nothing: never two requests at a time, never one unasked. -/
def Obligations.MovingSeqIssuesTheRequestItWaitsOn : Prop :=
  ∀ s t : State, step s = .next t →
    ∃ new, t.trace = s.trace ++ new ∧
      (t.seq ≠ s.seq → requestsIn new = t.outstanding.toList) ∧
      (t.seq = s.seq → requestsIn new = [])

/-- R53: whatever instruction runs, the bus requests it emits are among the six of the table, at ADDR. -/
def Obligations.OnlyTheTablesRequestsAreEmitted : Prop :=
  ∀ (i : Instr) (s t : State), exec i s = .next t →
    ∃ new, t.trace = s.trace ++ new ∧ (∀ r, .bus r ∈ new → r ∈ tableRequests s.addr) ∧
      (∀ ms, .delay ms ∈ new → ms = 80)

/-- READ is accepted in IDLE, while the host asserts it, there only (R48, R76, R115) and at most once a step.
Reset sends the step elsewhere (R109, R111); that a READ beside it is not accepted is the model's choice
(log 20). -/
def Obligations.ReadIsAcceptedInIdleOnly : Prop :=
  ∀ s t : State, step s = .next t →
    ∃ new, t.trace = s.trace ++ new ∧ new.count .read ≤ 1 ∧
      (.read ∈ new ↔ s.seq = 0x0 ∧ s.now.read = true ∧ s.now.reset = none)

/-- R80, R97, D12: a presented response stays as it is until the host accepts it or reset withdraws it. -/
def Obligations.ResponseIsHeldUntilAccepted : Prop :=
  ∀ s t : State, step s = .next t → s.respValid = true → s.now.accept = false →
    s.now.reset = none → t.respValid = true ∧ t.response = s.response ∧ t.trace = s.trace

/-! ## Invariants -/

/-- The register invariant holds after reset, at every address and in both formats. -/
def Obligations.RegisterInvariantHoldsAtReset : Prop :=
  State.reset.Inv ∧ ∀ (a : Addr) (f : FpFormat), (State.afterReset a f).Inv

/-- R18, R22, R24, R80, R82, R95, R98: every step keeps the register invariant. -/
def Obligations.RegisterInvariantIsKept : Prop :=
  ∀ s t : State, s.Inv → step s = .next t → t.Inv

/-- R52: from a state that meets the invariant no step faults: no reserved code is met. -/
def Obligations.NoStepFaultsUnderTheInvariant : Prop :=
  ∀ (s : State) (x : Fault), s.Inv → step s ≠ .fault x

/-- The empty trace of the power-up state keeps to the protocol. -/
def Obligations.ProtocolHoldsAtReset : Prop :=
  State.reset.Conforms ∧ ∀ (a : Addr) (f : FpFormat), (State.afterReset a f).Conforms

/-- R73, R75, R81, R82, R100, R111: every step keeps the whole trace a sequence of READs that each went
through the fixed transactions in the fixed order: the trigger only after a status byte that meets the
mask or after the three writes; a Reading only from the frame of its own READ; nothing after a failure. -/
def Obligations.ProtocolIsKept : Prop :=
  ∀ s t : State, s.Inv → s.Conforms → step s = .next t → t.Conforms

/-- R84, R22, R24, R25: nothing that an earlier READ left in FRAME, HUM, TEMP, ERR_KIND, ERR_VAL (or in the
model's RAW fields) reaches a later one: states that agree but for registers no transition from here
reads have the same steps. -/
def Obligations.NothingOfOneReadReachesTheNext : Prop :=
  ∀ s t : State, SameWhereRead s t → SameOutcome SameWhereRead (step s) (step t)

/-- R29 ("no transition of this spec does so"), R22, R80: no step from a state of the register invariant reads
a register that no transition has written: two states that differ in the free values of unwritten
registers (log 5) alone have the same outcome but for such values. -/
def Obligations.UnwrittenValuesReachNothing : Prop :=
  ∀ s t : State, s.Inv → SameIfWritten s t → SameOutcome SameIfWritten (step s) (step t)

/-- R25, I1: the transport's error values are passed through and never inspected: renaming them, even two to
one name, renames the outcome and changes nothing else, from every state of the register invariant. -/
def Obligations.ErrorValuesAreNeverInspected : Prop :=
  ∀ (g : TransportErr → TransportErr) (s : State), s.Inv →
    step (s.rename g) = renameOutcome g (step s)

/-- R94, R86, R87: FRAME[0], FRAME[6], FRAME[7] never matter, the high nibble of FRAME[3] matters to humidity
only and its low nibble to temperature only. -/
def Obligations.UnusedFrameBitsNeverMatter : Prop :=
  ∀ (s : State) (f g : Frame), f.b1 = g.b1 → f.b2 = g.b2 → f.b4 = g.b4 → f.b5 = g.b5 →
    ∃ t u, exec .convert { s with frame := .holds f } = .next t ∧
      exec .convert { s with frame := .holds g } = .next u ∧
      (f.b3 = g.b3 → t.hum = u.hum ∧ t.temp = u.temp) ∧
      (f.b3.extractLsb' 4 4 = g.b3.extractLsb' 4 4 → t.hum = u.hum) ∧
      (f.b3.extractLsb' 0 4 = g.b3.extractLsb' 0 4 → t.temp = u.temp)

/-! ## Numbers -/

/-- R91: the three constants and every code are exact in both formats. -/
def Obligations.ConstantsAndCodesAreExact : Prop :=
  ∀ f : FpFormat,
    (constH f).value = some (100 / 2 ^ 20) ∧ (constT f).value = some (200 / 2 ^ 20) ∧
    (tempOffset f).value = some 50 ∧
    ∀ c : Code, (f.fp c.toNat).value = some (c.toNat : ℚ)

/-- R92, first half: in binary64 both results are exact for every code, so each result determines its
code. -/
def Obligations.Binary64ResultsAreExact : Prop :=
  (∀ c : Code,
    (humOf .binary64 c).value = some (25 * (c.toNat : ℚ) / 2 ^ 18) ∧
    (tempOf .binary64 c).value = some ((25 * (c.toNat : ℚ) - 6553600) / 2 ^ 17)) ∧
  (∀ c d : Code, humOf .binary64 c = humOf .binary64 d → c = d) ∧
  (∀ c d : Code, tempOf .binary64 c = tempOf .binary64 d → c = d)

/-- R92, second half: in binary32 a code is rounded only if it is odd and at least 0xA3D71, and then to the
neighbour `25·RAW ± 1` that is a multiple of 4; the subtraction is exact. -/
def Obligations.Binary32RoundsToMultiplesOfFour : Prop :=
  ∀ c : Code, ∃ n : Nat,
    (humOf .binary32 c).value = some ((n : ℚ) / 2 ^ 18) ∧
    (tempOf .binary32 c).value = some ((n : ℚ) / 2 ^ 17 - 50) ∧
    (¬(c.toNat % 2 = 1 ∧ 0xA3D71 ≤ c.toNat) → n = 25 * c.toNat) ∧
    (c.toNat % 2 = 1 → 0xA3D71 ≤ c.toNat →
      n % 4 = 0 ∧ (n = 25 * c.toNat + 1 ∨ n + 1 = 25 * c.toNat))

/-- R93: in both formats every result is a finite number in its range, and its sign bit is set exactly if it
is negative, so that no result is -0. The upper bounds are the spec's maxima as exact fractions. -/
def Obligations.ResultsStayInRange : Prop :=
  ∀ (f : FpFormat) (c : Code), ∃ h t : ℚ,
    (humOf f c).value = some h ∧ (tempOf f c).value = some t ∧
    0 ≤ h ∧ h ≤ (match f with | .binary32 => 26214376 / 2 ^ 18 | .binary64 => 26214375 / 2 ^ 18) ∧
    -50 ≤ t ∧
    t ≤ (match f with | .binary32 => 26214376 / 2 ^ 17 - 50 | .binary64 => 26214375 / 2 ^ 17 - 50) ∧
    f.signOf (humOf f c).pattern = false ∧ (f.signOf (tempOf f c).pattern = true ↔ t < 0)

/-! ## One whole READ -/

/-- R81: a READ of a calibrated sensor, from any idle state, whatever the sensor answers: 3 bus transactions
and one delay, and the Reading of its frame. -/
def Obligations.CalibratedReadDeliversItsReading : Prop :=
  ∀ (s : State) (b : Byte) (f : Frame) (rest : List Inputs), s.seq = 0x0 → b &&& 0x18 = 0x18 →
    s.env = [{ read := true }, { bus := some (.ok [b]) }, { bus := some (.ok []) },
      { delay := true }, { bus := some (.ok f.bytes) }, ({} : Inputs), { accept := true }] ++ rest →
    ∃ t, Sys2Proof.core.run 7 s = .next t ∧ t.seq = 0x0 ∧ t.addr = s.addr ∧ t.env = rest ∧
      t.logOut = s.logOut ∧
      t.trace = s.trace ++ [.read, .bus ⟨1, s.addr, 1, []⟩, .busOk [b],
        .bus ⟨0, s.addr, 3, [0xAC, 0x33, 0x00]⟩, .busOk [], .delay 80, .delayDone,
        .bus ⟨1, s.addr, 8, []⟩, .busOk f.bytes,
        .respOk (tempOf s.fmt (rawTOf f)) (humOf s.fmt (rawHOf f))]

/-- R81, R73: a READ of an uncalibrated sensor: the log event, three calibration writes in order, then as
above: 6 bus transactions and one delay. -/
def Obligations.UncalibratedReadCalibratesFirst : Prop :=
  ∀ (s : State) (b : Byte) (f : Frame) (rest : List Inputs), s.seq = 0x0 → b &&& 0x18 ≠ 0x18 →
    s.env = [{ read := true }, { bus := some (.ok [b]) }, { bus := some (.ok []) },
      { bus := some (.ok []) }, { bus := some (.ok []) }, { bus := some (.ok []) },
      { delay := true }, { bus := some (.ok f.bytes) }, ({} : Inputs), { accept := true }] ++ rest →
    ∃ t, Sys2Proof.core.run 10 s = .next t ∧ t.seq = 0x0 ∧ t.addr = s.addr ∧ t.env = rest ∧
      t.logOut = s.logOut ++ [.cal] ∧
      t.trace = s.trace ++ [.read, .bus ⟨1, s.addr, 1, []⟩, .busOk [b],
        .bus ⟨0, s.addr, 3, [0x1B, 0x00, 0x00]⟩, .busOk [],
        .bus ⟨0, s.addr, 3, [0x1C, 0x00, 0x00]⟩, .busOk [],
        .bus ⟨0, s.addr, 3, [0x1E, 0x00, 0x00]⟩, .busOk [],
        .bus ⟨0, s.addr, 3, [0xAC, 0x33, 0x00]⟩, .busOk [], .delay 80, .delayDone,
        .bus ⟨1, s.addr, 8, []⟩, .busOk f.bytes,
        .respOk (tempOf s.fmt (rawTOf f)) (humOf s.fmt (rawHOf f))]
end

