-- ==== Sys2Proof/Laws/Float.lean ====
section
/-! SUPPORT. Rounding: exact where the format has the value, the same for every way to write the value. -/

namespace Sys2Proof

/-! ## Formats of results -/

@[simp] theorem FpFormat.signed_format (f : FpFormat) (neg : Bool) (n : Nat) :
    (f.signed neg n).format = f := by cases f <;> rfl

@[simp] theorem FpFormat.round_format (f : FpFormat) (neg : Bool) (m : Nat) (e : Int) :
    (f.round neg m e).format = f := f.signed_format _ _

@[simp] theorem FpFormat.infinity_format (f : FpFormat) (neg : Bool) :
    (f.infinity neg).format = f := f.signed_format _ _

@[simp] theorem FpFormat.quietNaN_format (f : FpFormat) : f.quietNaN.format = f := f.signed_format _ _

@[simp] theorem FpFormat.fmul_format (f : FpFormat) (a b : FpVal) : (f.fmul a b).format = f := by
  unfold FpFormat.fmul FpFormat.mulUnpacked
  split <;> (try split) <;> simp

@[simp] theorem FpFormat.fsub_format (f : FpFormat) (a b : FpVal) : (f.fsub a b).format = f := by
  unfold FpFormat.fsub FpFormat.addUnpacked
  split <;> (try dsimp only) <;> (try split) <;> simp

@[simp] theorem Machine.humOf_format (f : FpFormat) (c : Code) : (Machine.humOf f c).format = f :=
  f.fmul_format _ _

@[simp] theorem Machine.tempOf_format (f : FpFormat) (c : Code) : (Machine.tempOf f c).format = f :=
  f.fsub_format _ _

/-! ## Patterns -/

/-- The fields of a pattern whose magnitude is finite. -/
theorem FpFormat.pattern_fields (f : FpFormat) (neg : Bool) {mag : Nat}
    (h : mag < f.maxBiased * 2 ^ f.fracBits) :
    (f.signed neg mag).pattern % 2 ^ f.fracBits = mag % 2 ^ f.fracBits ∧
    (f.signed neg mag).pattern / 2 ^ f.fracBits % 2 ^ f.expBits = mag / 2 ^ f.fracBits ∧
    f.signOf (f.signed neg mag).pattern = neg := by
  cases f <;> cases neg <;>
    simp only [FpFormat.maxBiased, FpFormat.fracBits, FpFormat.expBits, FpFormat.signed,
      FpFormat.ofPattern, FpVal.pattern, FpFormat.width, FpFormat.signOf, BitVec.toNat_ofNat,
      if_true, Bool.false_eq_true, if_false, beq_eq_false_iff_ne, beq_iff_eq] at h ⊢ <;>
    omega

/-- A finite magnitude pattern taken apart: subnormal below the first normal number, normal from it on. -/
theorem FpFormat.unpack_signed (f : FpFormat) (neg : Bool) {mag : Nat}
    (h : mag < f.maxBiased * 2 ^ f.fracBits) :
    (f.signed neg mag).unpack =
      if mag < 2 ^ f.fracBits then .fin neg mag f.minExp
      else .fin neg (2 ^ f.fracBits + mag % 2 ^ f.fracBits)
        (f.minExp + (mag / 2 ^ f.fracBits - 1 : Nat)) := by
  obtain ⟨hm, he, hs⟩ := f.pattern_fields neg h
  have hlt : mag / 2 ^ f.fracBits < f.maxBiased := Nat.div_lt_of_lt_mul (by rwa [Nat.mul_comm])
  rw [FpVal.unpack, FpFormat.signed_format, FpFormat.unpack]
  simp only [hm, he, hs, if_neg hlt.ne]
  by_cases hl : mag < 2 ^ f.fracBits
  · rw [if_pos (Nat.div_eq_of_lt hl), if_pos hl, Nat.mod_eq_of_lt hl]
  · have : mag / 2 ^ f.fracBits ≠ 0 := by
      rw [Ne, Nat.div_eq_zero_iff]; simp [hl]
    rw [if_neg this, if_neg hl]

/-! ## Rounding -/

/-- Rounding does not see common factors of two. -/
theorem roundShift_mul_pow (m j k : Nat) : roundShift (m * 2 ^ k) (j + k) = roundShift m j := by
  have hk : 0 < 2 ^ k := Nat.two_pow_pos k
  unfold roundShift
  rw [Nat.pow_add, Nat.mul_div_mul_right _ _ hk, Nat.mul_mod_mul_right]
  have h1 : 2 ^ j * 2 ^ k < 2 * (m % 2 ^ j * 2 ^ k) ↔ 2 ^ j < 2 * (m % 2 ^ j) := by
    rw [← Nat.mul_assoc]; exact Nat.mul_lt_mul_right hk
  have h2 : 2 * (m % 2 ^ j * 2 ^ k) = 2 ^ j * 2 ^ k ↔ 2 * (m % 2 ^ j) = 2 ^ j := by
    rw [← Nat.mul_assoc]; exact Nat.mul_left_inj hk.ne'
  simp only [h1, h2]

/-- A shift by nothing rounds nothing. -/
@[simp] theorem roundShift_zero (m : Nat) : roundShift m 0 = m := by
  simp [roundShift, Nat.mod_one]

/-- An exact shift rounds nothing. -/
theorem roundShift_exact (m k : Nat) : roundShift (m * 2 ^ k) k = m := by
  simpa using roundShift_mul_pow m 0 k

theorem log2_mul_pow {m : Nat} (hm : m ≠ 0) (k : Nat) : (m * 2 ^ k).log2 = m.log2 + k := by
  have hk : m * 2 ^ k ≠ 0 := Nat.mul_ne_zero hm (Nat.two_pow_pos k).ne'
  apply le_antisymm
  · have := (Nat.log2_lt hk (k := m.log2 + k + 1)).mpr (by
      have := Nat.lt_log2_self (n := m)
      calc m * 2 ^ k < 2 ^ (m.log2 + 1) * 2 ^ k := Nat.mul_lt_mul_of_pos_right this (Nat.two_pow_pos k)
        _ = 2 ^ (m.log2 + k + 1) := by rw [← Nat.pow_add]; ring_nf)
    omega
  · rw [Nat.le_log2 hk, Nat.pow_add]
    exact Nat.mul_le_mul_right _ (Nat.log2_self_le hm)

theorem inUnits_mul_pow (m k : Nat) (e p : Int) :
    inUnits (m * 2 ^ k) (e - k) p = inUnits m e p := by
  unfold inUnits
  by_cases h1 : p ≤ e - k
  · rw [if_pos h1, if_pos (by omega), Nat.mul_assoc, ← Nat.pow_add]
    congr 2; omega
  · rw [if_neg h1]
    by_cases h2 : p ≤ e
    · rw [if_pos h2]
      obtain ⟨j, hj⟩ : ∃ j : Nat, (e - p).toNat = j := ⟨_, rfl⟩
      obtain ⟨i, hi⟩ : ∃ i : Nat, (p - (e - k)).toNat = i := ⟨_, rfl⟩
      have hk : k = j + i := by omega
      rw [hj, hi, hk, Nat.pow_add, ← Nat.mul_assoc, roundShift_exact]
    · rw [if_neg h2]
      have : (p - (e - k)).toNat = (p - e).toNat + k := by omega
      rw [this, roundShift_mul_pow]

/-- The rounded value depends on `m * 2^e` only, not on how it is written. -/
theorem FpFormat.round_mul_pow (f : FpFormat) (neg : Bool) (m k : Nat) (e : Int) :
    f.round neg (m * 2 ^ k) (e - k) = f.round neg m e := by
  by_cases hm : m = 0
  · simp [FpFormat.round, hm]
  have hmk : m * 2 ^ k ≠ 0 := Nat.mul_ne_zero hm (Nat.two_pow_pos k).ne'
  have hp : f.lastPlace (m * 2 ^ k) (e - k) = f.lastPlace m e := by
    unfold FpFormat.lastPlace; rw [log2_mul_pow hm]; congr 1; push_cast; ring
  unfold FpFormat.round FpFormat.magnitude
  rw [if_neg hmk, if_neg hm, hp, inUnits_mul_pow]

/-- Where the format has `m * 2^e` as a normal number, rounding gives it, with its leading bit in place. -/
theorem FpFormat.unpack_round_exact (f : FpFormat) (neg : Bool) {m : Nat} {e : Int} (hm : m ≠ 0)
    (hfit : m.log2 ≤ f.fracBits) (hlow : f.minExp + f.fracBits ≤ m.log2 + e)
    (hhigh : (m.log2 : Int) + e ≤ f.minExp + f.fracBits + f.maxBiased - 2) :
    (f.round neg m e).unpack =
      .fin neg (m * 2 ^ (f.fracBits - m.log2)) (e - (f.fracBits - m.log2 : Nat)) := by
  set d := f.fracBits - m.log2 with hd
  have hlead : 2 ^ f.fracBits ≤ m * 2 ^ d ∧ m * 2 ^ d < 2 ^ (f.fracBits + 1) := by
    have h1 := Nat.log2_self_le hm
    have h2 := Nat.lt_log2_self (n := m)
    have h3 : f.fracBits = m.log2 + d := by omega
    have h4 : f.fracBits + 1 = m.log2 + 1 + d := by omega
    rw [h4, h3, Nat.pow_add 2 (m.log2 + 1) d, Nat.pow_add 2 m.log2 d]
    exact ⟨Nat.mul_le_mul_right _ h1, Nat.mul_lt_mul_of_pos_right h2 (Nat.two_pow_pos d)⟩
  have hp : f.lastPlace m e = e - d := by unfold FpFormat.lastPlace; omega
  obtain ⟨q, hq⟩ : ∃ q : Nat, (e - d - f.minExp).toNat = q := ⟨_, rfl⟩
  have hqe : (q : Int) = e - d - f.minExp := by omega
  have hpow : 2 ^ (f.fracBits + 1) = 2 * 2 ^ f.fracBits := by rw [Nat.pow_succ, Nat.mul_comm]
  have hmag : q * 2 ^ f.fracBits + m * 2 ^ d < f.maxBiased * 2 ^ f.fracBits := by
    have hq2 : q + 2 ≤ f.maxBiased := by omega
    have := Nat.mul_le_mul_right (2 ^ f.fracBits) hq2
    rw [Nat.add_mul] at this
    omega
  have hround : f.round neg m e = f.signed neg (q * 2 ^ f.fracBits + m * 2 ^ d) := by
    have : (e - (e - d)).toNat = d := by omega
    unfold FpFormat.round FpFormat.magnitude inUnits
    rw [if_neg hm, hp, if_pos (by omega), hq, this, Nat.min_eq_left hmag.le]
  have hpos : 0 < 2 ^ f.fracBits := Nat.two_pow_pos _
  have hdiv : (q * 2 ^ f.fracBits + m * 2 ^ d) / 2 ^ f.fracBits = q + 1 := by
    have : m * 2 ^ d / 2 ^ f.fracBits = 1 :=
      Nat.div_eq_of_lt_le (by omega) (by omega)
    rw [Nat.add_comm, Nat.add_mul_div_right _ _ hpos, this, Nat.add_comm]
  have hmod : 2 ^ f.fracBits + (q * 2 ^ f.fracBits + m * 2 ^ d) % 2 ^ f.fracBits = m * 2 ^ d := by
    have := Nat.div_add_mod (q * 2 ^ f.fracBits + m * 2 ^ d) (2 ^ f.fracBits)
    rw [hdiv] at this
    have h5 : 2 ^ f.fracBits * (q + 1) = q * 2 ^ f.fracBits + 2 ^ f.fracBits := by ring
    omega
  rw [hround, f.unpack_signed neg hmag, if_neg (by nlinarith), hdiv, hmod]
  congr 1
  omega

end Sys2Proof
end

