-- ==== Sys2Proof/Laws/State.lean ====
section
/-! SUPPORT. One lemma per field per update of the state, so that no proof unfolds a record update. -/

namespace Sys2Proof.Machine

/-! ## `State.emit` -/

@[simp] theorem emit_seq (e : Event) (s : State) : (s.emit e).seq = s.seq := rfl
@[simp] theorem emit_addr (e : Event) (s : State) : (s.emit e).addr = s.addr := rfl
@[simp] theorem emit_frame (e : Event) (s : State) : (s.emit e).frame = s.frame := rfl
@[simp] theorem emit_hum (e : Event) (s : State) : (s.emit e).hum = s.hum := rfl
@[simp] theorem emit_temp (e : Event) (s : State) : (s.emit e).temp = s.temp := rfl
@[simp] theorem emit_errKind (e : Event) (s : State) : (s.emit e).errKind = s.errKind := rfl
@[simp] theorem emit_errVal (e : Event) (s : State) : (s.emit e).errVal = s.errVal := rfl
@[simp] theorem emit_rawH (e : Event) (s : State) : (s.emit e).rawH = s.rawH := rfl
@[simp] theorem emit_rawT (e : Event) (s : State) : (s.emit e).rawT = s.rawT := rfl
@[simp] theorem emit_fmt (e : Event) (s : State) : (s.emit e).fmt = s.fmt := rfl
@[simp] theorem emit_env (e : Event) (s : State) : (s.emit e).env = s.env := rfl
@[simp] theorem emit_owedBus (e : Event) (s : State) : (s.emit e).owedBus = s.owedBus := rfl
@[simp] theorem emit_owedDelay (e : Event) (s : State) : (s.emit e).owedDelay = s.owedDelay := rfl
@[simp] theorem emit_trace (e : Event) (s : State) : (s.emit e).trace = s.trace ++ [e] := rfl
@[simp] theorem emit_logOut (e : Event) (s : State) : (s.emit e).logOut = s.logOut := rfl
@[simp] theorem emit_now (e : Event) (s : State) : (s.emit e).now = s.now := rfl

/-! ## `State.emitLog` -/

@[simp] theorem emitLog_seq (s : State) : (s.emitLog).seq = s.seq := rfl
@[simp] theorem emitLog_addr (s : State) : (s.emitLog).addr = s.addr := rfl
@[simp] theorem emitLog_frame (s : State) : (s.emitLog).frame = s.frame := rfl
@[simp] theorem emitLog_hum (s : State) : (s.emitLog).hum = s.hum := rfl
@[simp] theorem emitLog_temp (s : State) : (s.emitLog).temp = s.temp := rfl
@[simp] theorem emitLog_errKind (s : State) : (s.emitLog).errKind = s.errKind := rfl
@[simp] theorem emitLog_errVal (s : State) : (s.emitLog).errVal = s.errVal := rfl
@[simp] theorem emitLog_rawH (s : State) : (s.emitLog).rawH = s.rawH := rfl
@[simp] theorem emitLog_rawT (s : State) : (s.emitLog).rawT = s.rawT := rfl
@[simp] theorem emitLog_fmt (s : State) : (s.emitLog).fmt = s.fmt := rfl
@[simp] theorem emitLog_env (s : State) : (s.emitLog).env = s.env := rfl
@[simp] theorem emitLog_owedBus (s : State) : (s.emitLog).owedBus = s.owedBus := rfl
@[simp] theorem emitLog_owedDelay (s : State) : (s.emitLog).owedDelay = s.owedDelay := rfl
@[simp] theorem emitLog_trace (s : State) : (s.emitLog).trace = s.trace := rfl
@[simp] theorem emitLog_logOut (s : State) : (s.emitLog).logOut = s.logOut ++ [.cal] := rfl
@[simp] theorem emitLog_now (s : State) : (s.emitLog).now = s.now := rfl

/-! ## `State.goto` -/

@[simp] theorem goto_seq (c : BitVec 4) (s : State) : (s.goto c).seq = c := rfl
@[simp] theorem goto_addr (c : BitVec 4) (s : State) : (s.goto c).addr = s.addr := rfl
@[simp] theorem goto_frame (c : BitVec 4) (s : State) : (s.goto c).frame = s.frame := rfl
@[simp] theorem goto_hum (c : BitVec 4) (s : State) : (s.goto c).hum = s.hum := rfl
@[simp] theorem goto_temp (c : BitVec 4) (s : State) : (s.goto c).temp = s.temp := rfl
@[simp] theorem goto_errKind (c : BitVec 4) (s : State) : (s.goto c).errKind = s.errKind := rfl
@[simp] theorem goto_errVal (c : BitVec 4) (s : State) : (s.goto c).errVal = s.errVal := rfl
@[simp] theorem goto_rawH (c : BitVec 4) (s : State) : (s.goto c).rawH = s.rawH := rfl
@[simp] theorem goto_rawT (c : BitVec 4) (s : State) : (s.goto c).rawT = s.rawT := rfl
@[simp] theorem goto_fmt (c : BitVec 4) (s : State) : (s.goto c).fmt = s.fmt := rfl
@[simp] theorem goto_env (c : BitVec 4) (s : State) : (s.goto c).env = s.env := rfl
@[simp] theorem goto_owedBus (c : BitVec 4) (s : State) : (s.goto c).owedBus = s.owedBus := rfl
@[simp] theorem goto_owedDelay (c : BitVec 4) (s : State) : (s.goto c).owedDelay = s.owedDelay := rfl
@[simp] theorem goto_trace (c : BitVec 4) (s : State) : (s.goto c).trace = s.trace := rfl
@[simp] theorem goto_logOut (c : BitVec 4) (s : State) : (s.goto c).logOut = s.logOut := rfl
@[simp] theorem goto_now (c : BitVec 4) (s : State) : (s.goto c).now = s.now := rfl

/-! ## `State.setFrame` -/

@[simp] theorem setFrame_seq (f : Frame) (s : State) : (s.setFrame f).seq = s.seq := rfl
@[simp] theorem setFrame_addr (f : Frame) (s : State) : (s.setFrame f).addr = s.addr := rfl
@[simp] theorem setFrame_frame (f : Frame) (s : State) : (s.setFrame f).frame = .holds f := rfl
@[simp] theorem setFrame_hum (f : Frame) (s : State) : (s.setFrame f).hum = s.hum := rfl
@[simp] theorem setFrame_temp (f : Frame) (s : State) : (s.setFrame f).temp = s.temp := rfl
@[simp] theorem setFrame_errKind (f : Frame) (s : State) : (s.setFrame f).errKind = s.errKind := rfl
@[simp] theorem setFrame_errVal (f : Frame) (s : State) : (s.setFrame f).errVal = s.errVal := rfl
@[simp] theorem setFrame_rawH (f : Frame) (s : State) : (s.setFrame f).rawH = s.rawH := rfl
@[simp] theorem setFrame_rawT (f : Frame) (s : State) : (s.setFrame f).rawT = s.rawT := rfl
@[simp] theorem setFrame_fmt (f : Frame) (s : State) : (s.setFrame f).fmt = s.fmt := rfl
@[simp] theorem setFrame_env (f : Frame) (s : State) : (s.setFrame f).env = s.env := rfl
@[simp] theorem setFrame_owedBus (f : Frame) (s : State) : (s.setFrame f).owedBus = s.owedBus := rfl
@[simp] theorem setFrame_owedDelay (f : Frame) (s : State) : (s.setFrame f).owedDelay = s.owedDelay := rfl
@[simp] theorem setFrame_trace (f : Frame) (s : State) : (s.setFrame f).trace = s.trace := rfl
@[simp] theorem setFrame_logOut (f : Frame) (s : State) : (s.setFrame f).logOut = s.logOut := rfl
@[simp] theorem setFrame_now (f : Frame) (s : State) : (s.setFrame f).now = s.now := rfl

/-! ## `State.setHum` -/

@[simp] theorem setHum_seq (v : FpVal) (s : State) : (s.setHum v).seq = s.seq := rfl
@[simp] theorem setHum_addr (v : FpVal) (s : State) : (s.setHum v).addr = s.addr := rfl
@[simp] theorem setHum_frame (v : FpVal) (s : State) : (s.setHum v).frame = s.frame := rfl
@[simp] theorem setHum_hum (v : FpVal) (s : State) : (s.setHum v).hum = .holds v := rfl
@[simp] theorem setHum_temp (v : FpVal) (s : State) : (s.setHum v).temp = s.temp := rfl
@[simp] theorem setHum_errKind (v : FpVal) (s : State) : (s.setHum v).errKind = s.errKind := rfl
@[simp] theorem setHum_errVal (v : FpVal) (s : State) : (s.setHum v).errVal = s.errVal := rfl
@[simp] theorem setHum_rawH (v : FpVal) (s : State) : (s.setHum v).rawH = s.rawH := rfl
@[simp] theorem setHum_rawT (v : FpVal) (s : State) : (s.setHum v).rawT = s.rawT := rfl
@[simp] theorem setHum_fmt (v : FpVal) (s : State) : (s.setHum v).fmt = s.fmt := rfl
@[simp] theorem setHum_env (v : FpVal) (s : State) : (s.setHum v).env = s.env := rfl
@[simp] theorem setHum_owedBus (v : FpVal) (s : State) : (s.setHum v).owedBus = s.owedBus := rfl
@[simp] theorem setHum_owedDelay (v : FpVal) (s : State) : (s.setHum v).owedDelay = s.owedDelay := rfl
@[simp] theorem setHum_trace (v : FpVal) (s : State) : (s.setHum v).trace = s.trace := rfl
@[simp] theorem setHum_logOut (v : FpVal) (s : State) : (s.setHum v).logOut = s.logOut := rfl
@[simp] theorem setHum_now (v : FpVal) (s : State) : (s.setHum v).now = s.now := rfl

/-! ## `State.setTemp` -/

@[simp] theorem setTemp_seq (v : FpVal) (s : State) : (s.setTemp v).seq = s.seq := rfl
@[simp] theorem setTemp_addr (v : FpVal) (s : State) : (s.setTemp v).addr = s.addr := rfl
@[simp] theorem setTemp_frame (v : FpVal) (s : State) : (s.setTemp v).frame = s.frame := rfl
@[simp] theorem setTemp_hum (v : FpVal) (s : State) : (s.setTemp v).hum = s.hum := rfl
@[simp] theorem setTemp_temp (v : FpVal) (s : State) : (s.setTemp v).temp = .holds v := rfl
@[simp] theorem setTemp_errKind (v : FpVal) (s : State) : (s.setTemp v).errKind = s.errKind := rfl
@[simp] theorem setTemp_errVal (v : FpVal) (s : State) : (s.setTemp v).errVal = s.errVal := rfl
@[simp] theorem setTemp_rawH (v : FpVal) (s : State) : (s.setTemp v).rawH = s.rawH := rfl
@[simp] theorem setTemp_rawT (v : FpVal) (s : State) : (s.setTemp v).rawT = s.rawT := rfl
@[simp] theorem setTemp_fmt (v : FpVal) (s : State) : (s.setTemp v).fmt = s.fmt := rfl
@[simp] theorem setTemp_env (v : FpVal) (s : State) : (s.setTemp v).env = s.env := rfl
@[simp] theorem setTemp_owedBus (v : FpVal) (s : State) : (s.setTemp v).owedBus = s.owedBus := rfl
@[simp] theorem setTemp_owedDelay (v : FpVal) (s : State) : (s.setTemp v).owedDelay = s.owedDelay := rfl
@[simp] theorem setTemp_trace (v : FpVal) (s : State) : (s.setTemp v).trace = s.trace := rfl
@[simp] theorem setTemp_logOut (v : FpVal) (s : State) : (s.setTemp v).logOut = s.logOut := rfl
@[simp] theorem setTemp_now (v : FpVal) (s : State) : (s.setTemp v).now = s.now := rfl

/-! ## `State.setRawH` -/

@[simp] theorem setRawH_seq (c : Code) (s : State) : (s.setRawH c).seq = s.seq := rfl
@[simp] theorem setRawH_addr (c : Code) (s : State) : (s.setRawH c).addr = s.addr := rfl
@[simp] theorem setRawH_frame (c : Code) (s : State) : (s.setRawH c).frame = s.frame := rfl
@[simp] theorem setRawH_hum (c : Code) (s : State) : (s.setRawH c).hum = s.hum := rfl
@[simp] theorem setRawH_temp (c : Code) (s : State) : (s.setRawH c).temp = s.temp := rfl
@[simp] theorem setRawH_errKind (c : Code) (s : State) : (s.setRawH c).errKind = s.errKind := rfl
@[simp] theorem setRawH_errVal (c : Code) (s : State) : (s.setRawH c).errVal = s.errVal := rfl
@[simp] theorem setRawH_rawH (c : Code) (s : State) : (s.setRawH c).rawH = c := rfl
@[simp] theorem setRawH_rawT (c : Code) (s : State) : (s.setRawH c).rawT = s.rawT := rfl
@[simp] theorem setRawH_fmt (c : Code) (s : State) : (s.setRawH c).fmt = s.fmt := rfl
@[simp] theorem setRawH_env (c : Code) (s : State) : (s.setRawH c).env = s.env := rfl
@[simp] theorem setRawH_owedBus (c : Code) (s : State) : (s.setRawH c).owedBus = s.owedBus := rfl
@[simp] theorem setRawH_owedDelay (c : Code) (s : State) : (s.setRawH c).owedDelay = s.owedDelay := rfl
@[simp] theorem setRawH_trace (c : Code) (s : State) : (s.setRawH c).trace = s.trace := rfl
@[simp] theorem setRawH_logOut (c : Code) (s : State) : (s.setRawH c).logOut = s.logOut := rfl
@[simp] theorem setRawH_now (c : Code) (s : State) : (s.setRawH c).now = s.now := rfl

/-! ## `State.setRawT` -/

@[simp] theorem setRawT_seq (c : Code) (s : State) : (s.setRawT c).seq = s.seq := rfl
@[simp] theorem setRawT_addr (c : Code) (s : State) : (s.setRawT c).addr = s.addr := rfl
@[simp] theorem setRawT_frame (c : Code) (s : State) : (s.setRawT c).frame = s.frame := rfl
@[simp] theorem setRawT_hum (c : Code) (s : State) : (s.setRawT c).hum = s.hum := rfl
@[simp] theorem setRawT_temp (c : Code) (s : State) : (s.setRawT c).temp = s.temp := rfl
@[simp] theorem setRawT_errKind (c : Code) (s : State) : (s.setRawT c).errKind = s.errKind := rfl
@[simp] theorem setRawT_errVal (c : Code) (s : State) : (s.setRawT c).errVal = s.errVal := rfl
@[simp] theorem setRawT_rawH (c : Code) (s : State) : (s.setRawT c).rawH = s.rawH := rfl
@[simp] theorem setRawT_rawT (c : Code) (s : State) : (s.setRawT c).rawT = c := rfl
@[simp] theorem setRawT_fmt (c : Code) (s : State) : (s.setRawT c).fmt = s.fmt := rfl
@[simp] theorem setRawT_env (c : Code) (s : State) : (s.setRawT c).env = s.env := rfl
@[simp] theorem setRawT_owedBus (c : Code) (s : State) : (s.setRawT c).owedBus = s.owedBus := rfl
@[simp] theorem setRawT_owedDelay (c : Code) (s : State) : (s.setRawT c).owedDelay = s.owedDelay := rfl
@[simp] theorem setRawT_trace (c : Code) (s : State) : (s.setRawT c).trace = s.trace := rfl
@[simp] theorem setRawT_logOut (c : Code) (s : State) : (s.setRawT c).logOut = s.logOut := rfl
@[simp] theorem setRawT_now (c : Code) (s : State) : (s.setRawT c).now = s.now := rfl

/-! ## `State.dropCodes` -/

@[simp] theorem dropCodes_seq (s : State) : (s.dropCodes).seq = s.seq := rfl
@[simp] theorem dropCodes_addr (s : State) : (s.dropCodes).addr = s.addr := rfl
@[simp] theorem dropCodes_frame (s : State) : (s.dropCodes).frame = s.frame := rfl
@[simp] theorem dropCodes_hum (s : State) : (s.dropCodes).hum = s.hum := rfl
@[simp] theorem dropCodes_temp (s : State) : (s.dropCodes).temp = s.temp := rfl
@[simp] theorem dropCodes_errKind (s : State) : (s.dropCodes).errKind = s.errKind := rfl
@[simp] theorem dropCodes_errVal (s : State) : (s.dropCodes).errVal = s.errVal := rfl
@[simp] theorem dropCodes_rawH (s : State) : (s.dropCodes).rawH = Config.noCodeH := rfl
@[simp] theorem dropCodes_rawT (s : State) : (s.dropCodes).rawT = Config.noCodeT := rfl
@[simp] theorem dropCodes_fmt (s : State) : (s.dropCodes).fmt = s.fmt := rfl
@[simp] theorem dropCodes_env (s : State) : (s.dropCodes).env = s.env := rfl
@[simp] theorem dropCodes_owedBus (s : State) : (s.dropCodes).owedBus = s.owedBus := rfl
@[simp] theorem dropCodes_owedDelay (s : State) : (s.dropCodes).owedDelay = s.owedDelay := rfl
@[simp] theorem dropCodes_trace (s : State) : (s.dropCodes).trace = s.trace := rfl
@[simp] theorem dropCodes_logOut (s : State) : (s.dropCodes).logOut = s.logOut := rfl
@[simp] theorem dropCodes_now (s : State) : (s.dropCodes).now = s.now := rfl

/-! ## `State.raiseTransportError` -/

@[simp] theorem raiseTransportError_seq (e : TransportErr) (s : State) : (s.raiseTransportError e).seq = seqFailed := rfl
@[simp] theorem raiseTransportError_addr (e : TransportErr) (s : State) : (s.raiseTransportError e).addr = s.addr := rfl
@[simp] theorem raiseTransportError_frame (e : TransportErr) (s : State) : (s.raiseTransportError e).frame = s.frame := rfl
@[simp] theorem raiseTransportError_hum (e : TransportErr) (s : State) : (s.raiseTransportError e).hum = s.hum := rfl
@[simp] theorem raiseTransportError_temp (e : TransportErr) (s : State) : (s.raiseTransportError e).temp = s.temp := rfl
@[simp] theorem raiseTransportError_errKind (e : TransportErr) (s : State) : (s.raiseTransportError e).errKind = .holds errTransport := rfl
@[simp] theorem raiseTransportError_errVal (e : TransportErr) (s : State) : (s.raiseTransportError e).errVal = .holds e := rfl
@[simp] theorem raiseTransportError_rawH (e : TransportErr) (s : State) : (s.raiseTransportError e).rawH = s.rawH := rfl
@[simp] theorem raiseTransportError_rawT (e : TransportErr) (s : State) : (s.raiseTransportError e).rawT = s.rawT := rfl
@[simp] theorem raiseTransportError_fmt (e : TransportErr) (s : State) : (s.raiseTransportError e).fmt = s.fmt := rfl
@[simp] theorem raiseTransportError_env (e : TransportErr) (s : State) : (s.raiseTransportError e).env = s.env := rfl
@[simp] theorem raiseTransportError_owedBus (e : TransportErr) (s : State) : (s.raiseTransportError e).owedBus = s.owedBus := rfl
@[simp] theorem raiseTransportError_owedDelay (e : TransportErr) (s : State) : (s.raiseTransportError e).owedDelay = s.owedDelay := rfl
@[simp] theorem raiseTransportError_trace (e : TransportErr) (s : State) : (s.raiseTransportError e).trace = s.trace := rfl
@[simp] theorem raiseTransportError_logOut (e : TransportErr) (s : State) : (s.raiseTransportError e).logOut = s.logOut := rfl
@[simp] theorem raiseTransportError_now (e : TransportErr) (s : State) : (s.raiseTransportError e).now = s.now := rfl

/-! ## `State.returnToIdle` -/

@[simp] theorem returnToIdle_seq (s : State) : (s.returnToIdle).seq = seqIdle := rfl
@[simp] theorem returnToIdle_addr (s : State) : (s.returnToIdle).addr = s.addr := rfl
@[simp] theorem returnToIdle_frame (s : State) : (s.returnToIdle).frame = unwrittenFrame := rfl
@[simp] theorem returnToIdle_hum (s : State) : (s.returnToIdle).hum = unwrittenHum s.fmt := rfl
@[simp] theorem returnToIdle_temp (s : State) : (s.returnToIdle).temp = unwrittenTemp s.fmt := rfl
@[simp] theorem returnToIdle_errKind (s : State) : (s.returnToIdle).errKind = unwrittenErrKind := rfl
@[simp] theorem returnToIdle_errVal (s : State) : (s.returnToIdle).errVal = unwrittenErrVal := rfl
@[simp] theorem returnToIdle_rawH (s : State) : (s.returnToIdle).rawH = s.rawH := rfl
@[simp] theorem returnToIdle_rawT (s : State) : (s.returnToIdle).rawT = s.rawT := rfl
@[simp] theorem returnToIdle_fmt (s : State) : (s.returnToIdle).fmt = s.fmt := rfl
@[simp] theorem returnToIdle_env (s : State) : (s.returnToIdle).env = s.env := rfl
@[simp] theorem returnToIdle_owedBus (s : State) : (s.returnToIdle).owedBus = s.owedBus := rfl
@[simp] theorem returnToIdle_owedDelay (s : State) : (s.returnToIdle).owedDelay = s.owedDelay := rfl
@[simp] theorem returnToIdle_trace (s : State) : (s.returnToIdle).trace = s.trace := rfl
@[simp] theorem returnToIdle_logOut (s : State) : (s.returnToIdle).logOut = s.logOut := rfl
@[simp] theorem returnToIdle_now (s : State) : (s.returnToIdle).now = s.now := rfl

/-! ## `State.resetTo` -/

@[simp] theorem resetTo_seq (a : Addr) (s : State) : (s.resetTo a).seq = 0x0 := rfl
@[simp] theorem resetTo_addr (a : Addr) (s : State) : (s.resetTo a).addr = a := rfl
@[simp] theorem resetTo_frame (a : Addr) (s : State) : (s.resetTo a).frame = unwrittenFrame := rfl
@[simp] theorem resetTo_hum (a : Addr) (s : State) : (s.resetTo a).hum = unwrittenHum s.fmt := rfl
@[simp] theorem resetTo_temp (a : Addr) (s : State) : (s.resetTo a).temp = unwrittenTemp s.fmt := rfl
@[simp] theorem resetTo_errKind (a : Addr) (s : State) : (s.resetTo a).errKind = unwrittenErrKind := rfl
@[simp] theorem resetTo_errVal (a : Addr) (s : State) : (s.resetTo a).errVal = unwrittenErrVal := rfl
@[simp] theorem resetTo_rawH (a : Addr) (s : State) : (s.resetTo a).rawH = Config.noCodeH := rfl
@[simp] theorem resetTo_rawT (a : Addr) (s : State) : (s.resetTo a).rawT = Config.noCodeT := rfl
@[simp] theorem resetTo_fmt (a : Addr) (s : State) : (s.resetTo a).fmt = s.fmt := rfl
@[simp] theorem resetTo_env (a : Addr) (s : State) : (s.resetTo a).env = s.env := rfl
@[simp] theorem resetTo_owedBus (a : Addr) (s : State) : (s.resetTo a).owedBus = s.owedBus + s.abandonedBus := rfl
@[simp] theorem resetTo_owedDelay (a : Addr) (s : State) : (s.resetTo a).owedDelay = s.owedDelay + s.abandonedDelay := rfl
@[simp] theorem resetTo_trace (a : Addr) (s : State) : (s.resetTo a).trace = s.trace ++ [.reset a] := rfl
@[simp] theorem resetTo_logOut (a : Addr) (s : State) : (s.resetTo a).logOut = s.logOut := rfl
@[simp] theorem resetTo_now (a : Addr) (s : State) : (s.resetTo a).now = s.now := rfl

/-! ## `State.advance` -/

@[simp] theorem advance_seq (i : Inputs) (s : State) : (s.advance i).seq = s.seq := rfl
@[simp] theorem advance_addr (i : Inputs) (s : State) : (s.advance i).addr = s.addr := rfl
@[simp] theorem advance_frame (i : Inputs) (s : State) : (s.advance i).frame = s.frame := rfl
@[simp] theorem advance_hum (i : Inputs) (s : State) : (s.advance i).hum = s.hum := rfl
@[simp] theorem advance_temp (i : Inputs) (s : State) : (s.advance i).temp = s.temp := rfl
@[simp] theorem advance_errKind (i : Inputs) (s : State) : (s.advance i).errKind = s.errKind := rfl
@[simp] theorem advance_errVal (i : Inputs) (s : State) : (s.advance i).errVal = s.errVal := rfl
@[simp] theorem advance_rawH (i : Inputs) (s : State) : (s.advance i).rawH = s.rawH := rfl
@[simp] theorem advance_rawT (i : Inputs) (s : State) : (s.advance i).rawT = s.rawT := rfl
@[simp] theorem advance_fmt (i : Inputs) (s : State) : (s.advance i).fmt = s.fmt := rfl
@[simp] theorem advance_env (i : Inputs) (s : State) : (s.advance i).env = s.env.tail := rfl
@[simp] theorem advance_owedBus (i : Inputs) (s : State) : (s.advance i).owedBus = s.owedBus - (if i.lateBus.isSome then 1 else 0) := rfl
@[simp] theorem advance_owedDelay (i : Inputs) (s : State) : (s.advance i).owedDelay = s.owedDelay - (if i.lateDelay then 1 else 0) := rfl
@[simp] theorem advance_trace (i : Inputs) (s : State) : (s.advance i).trace = s.trace := rfl
@[simp] theorem advance_logOut (i : Inputs) (s : State) : (s.advance i).logOut = s.logOut := rfl

/-! ## `State.afterReset` and `State.reset` -/

@[simp] theorem afterReset_seq (a : Addr) (f : FpFormat) : (State.afterReset a f).seq = 0x0 := rfl
@[simp] theorem afterReset_addr (a : Addr) (f : FpFormat) : (State.afterReset a f).addr = a := rfl
@[simp] theorem afterReset_frame (a : Addr) (f : FpFormat) : (State.afterReset a f).frame = unwrittenFrame := rfl
@[simp] theorem afterReset_hum (a : Addr) (f : FpFormat) : (State.afterReset a f).hum = unwrittenHum f := rfl
@[simp] theorem afterReset_temp (a : Addr) (f : FpFormat) : (State.afterReset a f).temp = unwrittenTemp f := rfl
@[simp] theorem afterReset_errKind (a : Addr) (f : FpFormat) : (State.afterReset a f).errKind = unwrittenErrKind := rfl
@[simp] theorem afterReset_errVal (a : Addr) (f : FpFormat) : (State.afterReset a f).errVal = unwrittenErrVal := rfl
@[simp] theorem afterReset_rawH (a : Addr) (f : FpFormat) : (State.afterReset a f).rawH = Config.noCodeH := rfl
@[simp] theorem afterReset_rawT (a : Addr) (f : FpFormat) : (State.afterReset a f).rawT = Config.noCodeT := rfl
@[simp] theorem afterReset_fmt (a : Addr) (f : FpFormat) : (State.afterReset a f).fmt = f := rfl
@[simp] theorem afterReset_env (a : Addr) (f : FpFormat) : (State.afterReset a f).env = [] := rfl
@[simp] theorem afterReset_owedBus (a : Addr) (f : FpFormat) : (State.afterReset a f).owedBus = 0 := rfl
@[simp] theorem afterReset_owedDelay (a : Addr) (f : FpFormat) : (State.afterReset a f).owedDelay = 0 := rfl
@[simp] theorem afterReset_trace (a : Addr) (f : FpFormat) : (State.afterReset a f).trace = [] := rfl
@[simp] theorem afterReset_logOut (a : Addr) (f : FpFormat) : (State.afterReset a f).logOut = [] := rfl

/-! ## Reading a register -/

@[simp] theorem Reg.get_holds {α : Type} (v : α) : (Reg.holds v).get = v := rfl
@[simp] theorem Reg.get_unwritten {α : Type} (v : α) : (Reg.unwritten v).get = v := rfl

/-! ## Unwritten registers -/

@[simp] theorem unwrittenErrKind_ne_holds (k : BitVec 1) : unwrittenErrKind ≠ .holds k := nofun
@[simp] theorem unwrittenHum_format (f : FpFormat) : (unwrittenHum f).get.format = f := by
  cases f <;> rfl
@[simp] theorem unwrittenTemp_format (f : FpFormat) : (unwrittenTemp f).get.format = f := by
  cases f <;> rfl

end Sys2Proof.Machine
end

