-- ==== Sys2Proof/Laws/Ops.lean ====
section
/-! SUPPORT. One lemma per shared operation: everything it can do. -/

namespace Sys2Proof.Machine

/-! ## The arms of exec -/

@[simp] theorem exec_read (s : State) : exec .read s = execRead s := rfl
@[simp] theorem exec_reset (a : Addr) (s : State) : exec (.reset a) s = execReset a s := rfl
@[simp] theorem exec_idle (s : State) : exec .idle s = execIdle s := rfl
@[simp] theorem exec_checkCal (s : State) : exec .checkCal s = execCheckCal s := rfl
@[simp] theorem exec_cal1B (s : State) : exec .cal1B s = execCal1B s := rfl
@[simp] theorem exec_cal1C (s : State) : exec .cal1C s = execCal1C s := rfl
@[simp] theorem exec_cal1E (s : State) : exec .cal1E s = execCal1E s := rfl
@[simp] theorem exec_trigger (s : State) : exec .trigger s = execTrigger s := rfl
@[simp] theorem exec_wait (s : State) : exec .wait s = execWait s := rfl
@[simp] theorem exec_readData (s : State) : exec .readData s = execReadData s := rfl
@[simp] theorem exec_convert (s : State) : exec .convert s = execConvert s := rfl
@[simp] theorem exec_done (s : State) : exec .done s = execDone s := rfl
@[simp] theorem exec_failed (s : State) : exec .failed s = execFailed s := rfl
@[simp] theorem exec_rdStatus (a : Addr) (s : State) : exec (.rdStatus a) s = execRdStatus a s := rfl
@[simp] theorem exec_rdFrame (a : Addr) (s : State) : exec (.rdFrame a) s = execRdFrame a s := rfl
@[simp] theorem exec_wrCal1B (a : Addr) (s : State) : exec (.wrCal1B a) s = execWrCal1B a s := rfl
@[simp] theorem exec_wrCal1C (a : Addr) (s : State) : exec (.wrCal1C a) s = execWrCal1C a s := rfl
@[simp] theorem exec_wrCal1E (a : Addr) (s : State) : exec (.wrCal1E a) s = execWrCal1E a s := rfl
@[simp] theorem exec_wrTrig (a : Addr) (s : State) : exec (.wrTrig a) s = execWrTrig a s := rfl
@[simp] theorem exec_dly80 (s : State) : exec .dly80 s = execDly80 s := rfl
@[simp] theorem exec_logCal (s : State) : exec .logCal s = execLogCal s := rfl
@[simp] theorem exec_extractH (s : State) : exec .extractH s = execExtractH s := rfl
@[simp] theorem exec_extractT (s : State) : exec .extractT s = execExtractT s := rfl
@[simp] theorem exec_convH (s : State) : exec .convH s = execConvH s := rfl
@[simp] theorem exec_convT (s : State) : exec .convT s = execConvT s := rfl

/-! ## Sequencing -/

@[simp] theorem andThen_next (s : State) (k : State → Result) : andThen (.next s) k = k s := rfl
@[simp] theorem andThen_fault (f : Fault) (k : State → Result) : andThen (.fault f) k = .fault f := rfl
@[simp] theorem andThen_refused (r : Refusal) (k : State → Result) :
    andThen (.refused r) k = .refused r := rfl

theorem andThen_eq_next {r : Result} {k : State → Result} {t : State} (h : andThen r k = .next t) :
    ∃ s, r = .next s ∧ k s = .next t := by
  cases r with
  | next s => exact ⟨s, rfl, h⟩
  | fault f => cases h
  | refused f => cases h

/-! ## Requests, failure and responses -/

@[simp] theorem issueBus_eq_emit (r : BusRequest) (s : State) : s.issueBus r = s.emit (.bus r) := rfl
@[simp] theorem issueDelay_eq_emit (s : State) : s.issueDelay = s.emit (.delay delayMs) := rfl

theorem wireTransaction_own {a : Addr} {r : BusRequest} {s : State} (h : a = s.addr) :
    wireTransaction a r s = .next (s.emit (.bus r)) := if_pos h

theorem wireTransaction_foreign {a : Addr} {r : BusRequest} {s : State} (h : a ≠ s.addr) :
    wireTransaction a r s = .refused .foreignAddress := if_neg h

theorem wireTransaction_eq_next {a : Addr} {r : BusRequest} {s t : State}
    (h : wireTransaction a r s = .next t) : a = s.addr ∧ t = s.emit (.bus r) := by
  by_cases ha : a = s.addr
  · rw [wireTransaction_own ha] at h; cases h; exact ⟨ha, rfl⟩
  · rw [wireTransaction_foreign ha] at h; cases h

theorem respond_accepted {r : HostResponse} {s : State} (h : s.now.accept = true) :
    respond r s = .next (s.emit r.event).returnToIdle := by simp [respond, h]

theorem respond_held {r : HostResponse} {s : State} (h : s.now.accept = false) :
    respond r s = .next s := by simp [respond, h]

theorem respond_eq_next {r : HostResponse} {s t : State} (h : respond r s = .next t) :
    (s.now.accept = true ∧ t = (s.emit r.event).returnToIdle) ∨ (s.now.accept = false ∧ t = s) := by
  cases ha : s.now.accept with
  | true => rw [respond_accepted ha] at h; cases h; exact .inl ⟨rfl, rfl⟩
  | false => rw [respond_held ha] at h; cases h; exact .inr ⟨rfl, rfl⟩

/-! ## Bus responses -/

theorem onBusResponse_none {k : List Byte → State → Result} {s : State} (h : s.now.bus = none) :
    onBusResponse k s = .next s := by simp [onBusResponse, h]

theorem onBusResponse_fail {k : List Byte → State → Result} {s : State} {e : TransportErr}
    (h : s.now.bus = some (.fail e)) :
    onBusResponse k s = .next ((s.emit (.busFail e)).raiseTransportError e) := by
  simp [onBusResponse, h]

theorem onBusResponse_ok {k : List Byte → State → Result} {s : State} {bs : List Byte}
    (h : s.now.bus = some (.ok bs)) : onBusResponse k s = k bs (s.emit (.busOk bs)) := by
  simp [onBusResponse, h]

theorem onBusResponse_eq_next {k : List Byte → State → Result} {s t : State}
    (h : onBusResponse k s = .next t) :
    (s.now.bus = none ∧ t = s) ∨
    (∃ e, s.now.bus = some (.fail e) ∧ t = (s.emit (.busFail e)).raiseTransportError e) ∨
    (∃ bs, s.now.bus = some (.ok bs) ∧ k bs (s.emit (.busOk bs)) = .next t) := by
  match hb : s.now.bus with
  | none => rw [onBusResponse_none hb] at h; cases h; exact .inl ⟨rfl, rfl⟩
  | some (.fail e) => rw [onBusResponse_fail hb] at h; cases h; exact .inr (.inl ⟨e, rfl, rfl⟩)
  | some (.ok bs) => rw [onBusResponse_ok hb] at h; exact .inr (.inr ⟨bs, rfl, h⟩)

theorem onWriteResponse_none {k : State → State} {s : State} (h : s.now.bus = none) :
    onWriteResponse k s = .next s := onBusResponse_none h

theorem onWriteResponse_fail {k : State → State} {s : State} {e : TransportErr}
    (h : s.now.bus = some (.fail e)) :
    onWriteResponse k s = .next ((s.emit (.busFail e)).raiseTransportError e) :=
  onBusResponse_fail h

theorem onWriteResponse_ok {k : State → State} {s : State} (h : s.now.bus = some (.ok [])) :
    onWriteResponse k s = .next (k (s.emit (.busOk []))) := by
  simp [onWriteResponse, onBusResponse, h]

theorem onWriteResponse_eq_next {k : State → State} {s t : State}
    (h : onWriteResponse k s = .next t) :
    (s.now.bus = none ∧ t = s) ∨
    (∃ e, s.now.bus = some (.fail e) ∧ t = (s.emit (.busFail e)).raiseTransportError e) ∨
    (s.now.bus = some (.ok []) ∧ t = k (s.emit (.busOk []))) := by
  rcases onBusResponse_eq_next h with hn | hf | ⟨bs, hb, hk⟩
  · exact .inl hn
  · exact .inr (.inl hf)
  · cases bs with
    | nil => cases hk; exact .inr (.inr ⟨hb, rfl⟩)
    | cons b bs => cases hk

/-! ## The frame -/

@[simp] theorem Frame.ofBytes_bytes (f : Frame) : Frame.ofBytes f.bytes = some f := rfl

theorem Frame.ofBytes_eq_some {bs : List Byte} {f : Frame} (h : Frame.ofBytes bs = some f) :
    bs = f.bytes := by
  unfold Frame.ofBytes at h
  split at h
  · cases h; rfl
  · cases h

/-! ## What each micro-operation can do -/

theorem execIdle_eq_next {s t : State} (h : execIdle s = .next t) :
    (s.now.read = true ∧ t = s.acceptRead) ∨ (s.now.read = false ∧ t = s) := by
  unfold execIdle at h
  cases hr : s.now.read <;> simp only [hr, if_true, Bool.false_eq_true, if_false] at h <;> cases h
  · exact .inr ⟨rfl, rfl⟩
  · exact .inl ⟨rfl, rfl⟩

theorem execRead_eq_next {s t : State} (h : execRead s = .next t) :
    (s.seq = 0x0 ∧ t = s.acceptRead) ∨ (s.seq ≠ 0x0 ∧ t = s) := by
  unfold execRead State.hostReady seqIdle at h
  by_cases hs : s.seq = 0x0
  · simp only [hs, BEq.rfl, if_true] at h; cases h; exact .inl ⟨hs, rfl⟩
  · simp only [beq_eq_false_iff_ne.mpr hs, Bool.false_eq_true, if_false] at h; cases h
    exact .inr ⟨hs, rfl⟩

theorem execCheckCal_eq_next {s t : State} (h : execCheckCal s = .next t) :
    (s.now.bus = none ∧ t = s) ∨
    (∃ e, s.now.bus = some (.fail e) ∧ t = (s.emit (.busFail e)).raiseTransportError e) ∨
    (∃ b, s.now.bus = some (.ok [b]) ∧ t = afterStatus b (s.emit (.busOk [b]))) := by
  rcases onBusResponse_eq_next h with hn | hf | ⟨bs, hb, hk⟩
  · exact .inl hn
  · exact .inr (.inl hf)
  · match bs with
    | [] => cases hk
    | [b] => cases hk; exact .inr (.inr ⟨b, hb, rfl⟩)
    | _ :: _ :: _ => cases hk

theorem execCal1B_eq_next {s t : State} (h : execCal1B s = .next t) :
    (s.now.bus = none ∧ t = s) ∨
    (∃ e, s.now.bus = some (.fail e) ∧ t = (s.emit (.busFail e)).raiseTransportError e) ∨
    (s.now.bus = some (.ok []) ∧ t = ((s.emit (.busOk [])).goto seqCal1C).emit (.bus (wrCal1CRequest s.addr))) :=
  onWriteResponse_eq_next h

theorem execCal1C_eq_next {s t : State} (h : execCal1C s = .next t) :
    (s.now.bus = none ∧ t = s) ∨
    (∃ e, s.now.bus = some (.fail e) ∧ t = (s.emit (.busFail e)).raiseTransportError e) ∨
    (s.now.bus = some (.ok []) ∧ t = ((s.emit (.busOk [])).goto seqCal1E).emit (.bus (wrCal1ERequest s.addr))) :=
  onWriteResponse_eq_next h

theorem execCal1E_eq_next {s t : State} (h : execCal1E s = .next t) :
    (s.now.bus = none ∧ t = s) ∨
    (∃ e, s.now.bus = some (.fail e) ∧ t = (s.emit (.busFail e)).raiseTransportError e) ∨
    (s.now.bus = some (.ok []) ∧ t = ((s.emit (.busOk [])).goto seqTrigger).emit (.bus (wrTrigRequest s.addr))) :=
  onWriteResponse_eq_next h

theorem execTrigger_eq_next {s t : State} (h : execTrigger s = .next t) :
    (s.now.bus = none ∧ t = s) ∨
    (∃ e, s.now.bus = some (.fail e) ∧ t = (s.emit (.busFail e)).raiseTransportError e) ∨
    (s.now.bus = some (.ok []) ∧ t = ((s.emit (.busOk [])).goto seqWait).emit (.delay delayMs)) :=
  onWriteResponse_eq_next h

theorem execWait_eq_next {s t : State} (h : execWait s = .next t) :
    (s.now.delay = true ∧
      t = ((s.emit .delayDone).goto seqReadData).emit (.bus (rdFrameRequest s.addr))) ∨
    (s.now.delay = false ∧ t = s) := by
  unfold execWait at h
  cases hd : s.now.delay <;> simp only [hd, if_true, Bool.false_eq_true, if_false] at h <;> cases h
  · exact .inr ⟨rfl, rfl⟩
  · exact .inl ⟨rfl, rfl⟩

theorem execReadData_eq_next {s t : State} (h : execReadData s = .next t) :
    (s.now.bus = none ∧ t = s) ∨
    (∃ e, s.now.bus = some (.fail e) ∧ t = (s.emit (.busFail e)).raiseTransportError e) ∨
    (∃ f : Frame, s.now.bus = some (.ok f.bytes) ∧
      t = ((s.emit (.busOk f.bytes)).setFrame f).goto seqConvert) := by
  rcases onBusResponse_eq_next h with hn | hf | ⟨bs, hb, hk⟩
  · exact .inl hn
  · exact .inr (.inl hf)
  · match hfr : Frame.ofBytes bs with
    | none => simp only [hfr] at hk; cases hk
    | some f =>
      simp only [hfr] at hk; cases hk
      cases Frame.ofBytes_eq_some hfr
      exact .inr (.inr ⟨f, hb, rfl⟩)

/-- CONVERT is its four sub-operations in their order, with no code left behind (R85). -/
theorem execConvert_eq_subops (s : State) :
    execConvert s =
      andThen (andThen (andThen (andThen (execExtractH s) execExtractT) execConvH) execConvT)
        fun t => .next (t.dropCodes.goto seqDone) := rfl

theorem execConvert_eq_next {s t : State} (h : execConvert s = .next t) :
    t = ((s.setHum (humOf s.fmt (rawHOf s.frame.get))).setTemp
      (tempOf s.fmt (rawTOf s.frame.get))).dropCodes.goto seqDone := by cases h; rfl

theorem execDone_eq_next {s t : State} (h : execDone s = .next t) :
    (s.now.accept = true ∧ t = (s.emit (.respOk s.temp.get s.hum.get)).returnToIdle) ∨
    (s.now.accept = false ∧ t = s) := respond_eq_next h

theorem execFailed_eq_next {s t : State} (h : execFailed s = .next t) :
    (s.now.accept = true ∧ t = (s.emit s.errorResponse.event).returnToIdle) ∨
    (s.now.accept = false ∧ t = s) := respond_eq_next h

/-- The two responses of FAILED (R97, R50). -/
theorem errorResponse_cases (s : State) :
    (s.errKind.get = errTransport ∧ s.errorResponse = .transport s.errVal.get) ∨
    (s.errKind.get = errReadTooFast ∧ s.errorResponse = .readTooFast) := by
  by_cases h : s.errKind.get = errTransport
  · exact .inl ⟨h, if_pos h⟩
  · exact .inr ⟨(by decide : ∀ k : BitVec 1, ¬k = errTransport → k = errReadTooFast) _ h, if_neg h⟩

/-! ## The outstanding request -/

theorem awaitsBus_iff (s : State) :
    s.awaitsBus = true ↔ s.seq ∈ ([0x1, 0x2, 0x3, 0x4, 0x5, 0x7] : List (BitVec 4)) := by
  unfold State.awaitsBus State.outstanding
  generalize s.seq = c
  generalize s.addr = a
  revert a c
  decide

theorem awaitsDelay_iff (s : State) : s.awaitsDelay = true ↔ s.seq = 0x6 := by
  unfold State.awaitsDelay State.outstanding
  generalize s.seq = c
  generalize s.addr = a
  revert a c
  decide

/-! ## Fetch and step -/

theorem seq_eq_of_toNat {c : BitVec 4} {n : Nat} (h : c.toNat = n) : c = BitVec.ofNat 4 n := by
  subst h; simp

/-- The code of SEQ and the micro-operation it names (R18, R51). -/
theorem decodeSeq_eq_ok {c : BitVec 4} {i : Instr} (h : decodeSeq c.toNat = .ok i) :
    (c = 0x0 ∧ i = .idle) ∨ (c = 0x1 ∧ i = .checkCal) ∨ (c = 0x2 ∧ i = .cal1B) ∨
    (c = 0x3 ∧ i = .cal1C) ∨ (c = 0x4 ∧ i = .cal1E) ∨ (c = 0x5 ∧ i = .trigger) ∨
    (c = 0x6 ∧ i = .wait) ∨ (c = 0x7 ∧ i = .readData) ∨ (c = 0x8 ∧ i = .convert) ∨
    (c = 0x9 ∧ i = .done) ∨ (c = 0xA ∧ i = .failed) := by
  unfold decodeSeq at h
  split at h <;> cases h <;> rename_i hc <;>
    (have := seq_eq_of_toNat hc; subst this; decide)

/-- Every legal code names a micro-operation. -/
theorem decodeSeq_legal {n : Nat} (h : n ≤ 0xA) : ∃ i, decodeSeq n = .ok i := by
  match n, h with
  | 0, _ | 1, _ | 2, _ | 3, _ | 4, _ | 5, _ | 6, _ | 7, _ | 8, _ | 9, _ | 10, _ => exact ⟨_, rfl⟩

theorem fetch_eq_next {s : State} {i : Instr} (h : s.fetch = .next i) :
    (∃ j, decodeSeq s.seq.toNat = .ok j) ∧
    ((∃ a, s.now.reset = some a ∧ i = .reset a) ∨
     (s.now.reset = none ∧ s.breach = none ∧ decodeSeq s.seq.toNat = .ok i)) := by
  unfold State.fetch at h
  split at h
  · cases h
  · rename_i j hj
    refine ⟨⟨j, hj⟩, ?_⟩
    split at h
    · rename_i a ha; cases h; exact .inl ⟨a, ha, rfl⟩
    · rename_i hr
      split at h
      · cases h
      · rename_i hb; cases h; exact .inr ⟨hr, hb, hj⟩

theorem step_eq_next {s t : State} (h : step s = .next t) :
    ∃ i u, s.fetch = .next i ∧ exec i s = .next u ∧ t = u.advance s.now := by
  unfold step at h
  split at h
  · rename_i i hi
    obtain ⟨u, hu, ht⟩ := andThen_eq_next h
    cases ht
    exact ⟨i, u, hi, hu, rfl⟩
  · cases h
  · cases h

/-- What a step can do: a reset, or the micro-operation of SEQ. -/
theorem step_cases {s t : State} (h : step s = .next t) :
    (∃ a, s.now.reset = some a ∧ s.seq.toNat ≤ 0xA ∧ t = (s.resetTo a).advance s.now) ∨
    (s.now.reset = none ∧ s.breach = none ∧ ∃ i u, decodeSeq s.seq.toNat = .ok i ∧
      exec i s = .next u ∧ t = u.advance s.now) := by
  obtain ⟨i, u, hf, hx, rfl⟩ := step_eq_next h
  obtain ⟨⟨j, hj⟩, ⟨a, ha, rfl⟩ | ⟨hr, hb, hi⟩⟩ := fetch_eq_next hf
  · cases hx
    refine .inl ⟨a, ha, ?_, rfl⟩
    rcases decodeSeq_eq_ok hj with h | h | h | h | h | h | h | h | h | h | h <;> rw [h.1] <;> decide
  · exact .inr ⟨hr, hb, i, u, hi, hx, rfl⟩

/-- Reset is the whole step. -/
theorem step_of_reset {s : State} {a : Addr} (hs : s.seq.toNat ≤ 0xA) (hr : s.now.reset = some a) :
    step s = .next ((s.resetTo a).advance s.now) := by
  obtain ⟨i, hi⟩ := decodeSeq_legal hs
  simp [step, State.fetch, hi, hr, execReset]

theorem step_of_fetch {s u : State} {i : Instr} (hf : s.fetch = .next i) (hx : exec i s = .next u) :
    step s = .next (u.advance s.now) := by simp [step, hf, hx]

end Sys2Proof.Machine
end

