-- ==== Sys2Proof/Laws/PerInstr.lean ====
section
/-! SUPPORT. Facts made once per instruction: an encoding fits the width of its space. -/

namespace Sys2Proof.Laws

/-- The bits of `i` fit its encoding space (R42, R47, R48, R51, R54, R56, R109). -/
def EncodeWidth.Statement (i : Instr) : Prop := encodeWord i < 2 ^ i.format.width

/-- A bus request header fits 12 bits (R42). -/
theorem headerWord_lt (dir len : Nat) (a : Addr) (hd : dir ≤ 1) (hl : len < 16) :
    headerWord dir a len < 2 ^ 12 := by
  have := a.isLt
  simp only [headerWord]
  omega

/-- A command write fits 36 bits (R42, R44). -/
theorem commandWord_lt (a : Addr) (c p q : Nat) (hc : c < 256) (hp : p < 256) (hq : q < 256) :
    commandWord a c p q < 2 ^ 36 := by
  have := headerWord_lt 0 3 a (by omega) (by omega)
  simp only [commandWord]
  omega

theorem EncodeWidth.read : EncodeWidth.Statement .read :=
  by unfold EncodeWidth.Statement; decide
theorem EncodeWidth.reset (a : Addr) : EncodeWidth.Statement (.reset a) := a.isLt
theorem EncodeWidth.idle : EncodeWidth.Statement .idle :=
  by unfold EncodeWidth.Statement; decide
theorem EncodeWidth.checkCal : EncodeWidth.Statement .checkCal :=
  by unfold EncodeWidth.Statement; decide
theorem EncodeWidth.cal1B : EncodeWidth.Statement .cal1B :=
  by unfold EncodeWidth.Statement; decide
theorem EncodeWidth.cal1C : EncodeWidth.Statement .cal1C :=
  by unfold EncodeWidth.Statement; decide
theorem EncodeWidth.cal1E : EncodeWidth.Statement .cal1E :=
  by unfold EncodeWidth.Statement; decide
theorem EncodeWidth.trigger : EncodeWidth.Statement .trigger :=
  by unfold EncodeWidth.Statement; decide
theorem EncodeWidth.wait : EncodeWidth.Statement .wait :=
  by unfold EncodeWidth.Statement; decide
theorem EncodeWidth.readData : EncodeWidth.Statement .readData :=
  by unfold EncodeWidth.Statement; decide
theorem EncodeWidth.convert : EncodeWidth.Statement .convert :=
  by unfold EncodeWidth.Statement; decide
theorem EncodeWidth.done : EncodeWidth.Statement .done :=
  by unfold EncodeWidth.Statement; decide
theorem EncodeWidth.failed : EncodeWidth.Statement .failed :=
  by unfold EncodeWidth.Statement; decide
theorem EncodeWidth.rdStatus (a : Addr) : EncodeWidth.Statement (.rdStatus a) :=
  headerWord_lt _ _ a (by decide) (by decide)
theorem EncodeWidth.rdFrame (a : Addr) : EncodeWidth.Statement (.rdFrame a) :=
  headerWord_lt _ _ a (by decide) (by decide)
theorem EncodeWidth.wrCal1B (a : Addr) : EncodeWidth.Statement (.wrCal1B a) :=
  commandWord_lt a _ _ _ (by decide) (by decide) (by decide)
theorem EncodeWidth.wrCal1C (a : Addr) : EncodeWidth.Statement (.wrCal1C a) :=
  commandWord_lt a _ _ _ (by decide) (by decide) (by decide)
theorem EncodeWidth.wrCal1E (a : Addr) : EncodeWidth.Statement (.wrCal1E a) :=
  commandWord_lt a _ _ _ (by decide) (by decide) (by decide)
theorem EncodeWidth.wrTrig (a : Addr) : EncodeWidth.Statement (.wrTrig a) :=
  commandWord_lt a _ _ _ (by decide) (by decide) (by decide)
theorem EncodeWidth.dly80 : EncodeWidth.Statement .dly80 :=
  by unfold EncodeWidth.Statement; decide
theorem EncodeWidth.logCal : EncodeWidth.Statement .logCal :=
  by unfold EncodeWidth.Statement; decide
theorem EncodeWidth.extractH : EncodeWidth.Statement .extractH :=
  by unfold EncodeWidth.Statement; decide
theorem EncodeWidth.extractT : EncodeWidth.Statement .extractT :=
  by unfold EncodeWidth.Statement; decide
theorem EncodeWidth.convH : EncodeWidth.Statement .convH :=
  by unfold EncodeWidth.Statement; decide
theorem EncodeWidth.convT : EncodeWidth.Statement .convT :=
  by unfold EncodeWidth.Statement; decide

end Sys2Proof.Laws
end

