-- ==== Sys2Proof/Tests/Slice0.lean ====
section
/-! SUPPORT. The model's own tests: well-formedness, decoding, one step at a time against the vectors of
95_test_vectors.md, and a witness for the hypotheses of every statement. -/

namespace Sys2Proof.Tests

open Sys2Proof.Machine

/-- A block at 0x38 in binary64 with SEQ at `c` and `i` on its ports. -/
def sample (c : BitVec 4) (i : Inputs) : State :=
  { State.afterReset 0x38 .binary64 with seq := c, env := [i] }

/-- The same with the frame of 95_test_vectors.md V4 row 1. -/
def withFrame (s : State) : State :=
  { s with frame := .holds ⟨0x00, 0x03, 0x04, 0x05, 0x06, 0x07, 0x00, 0x00⟩ }

/-- The same with a Reading of 0.0 and 50.0. -/
def withReading (s : State) : State :=
  { s with temp := .holds (.b64 0), hum := .holds (.b64 0x4049000000000000) }

/-- The same with a recorded transport error. -/
def withError (s : State) : State := { s with errKind := .holds 0, errVal := .holds ⟨7⟩ }

/-- The next state, if there is one. -/
def after : Result → Option State
  | .next s => some s
  | .fault _ => none
  | .refused _ => none

/-- SEQ and the trace after. -/
def seqTrace (r : Result) : Option (BitVec 4 × List Event) := (after r).map fun s => (s.seq, s.trace)

/-- The reason to stop, if it stops. -/
def stop : Result → Option (Fault ⊕ Refusal)
  | .next _ => none
  | .fault f => some (.inl f)
  | .refused r => some (.inr r)

/-! ## Well-formedness: the one check, on an ill-formed term of every constructor it bears on (R53) -/

theorem test_wellFormed_refuses_another_address :
    [Instr.rdStatus 0x39, .rdFrame 0x39, .wrCal1B 0x39, .wrCal1C 0x39, .wrCal1E 0x39,
      .wrTrig 0x39].all (fun i => i.wellFormed 0x38 == false) = true := by decide

theorem test_wellFormed_accepts_the_blocks_own :
    [Instr.rdStatus 0x38, .rdFrame 0x38, .wrCal1B 0x38, .wrCal1C 0x38, .wrCal1E 0x38,
      .wrTrig 0x38, .read, .reset 0x39, .convert].all (fun i => i.wellFormed 0x38) = true := by
  decide

/-! ## Decoding: words written out from 30_encoding.md and opcode_table.json, bit by bit -/

theorem test_decode_host_and_reset :
    decodeWord .hostRequest 0b1 = .ok .read ∧ decodeWord .reset 0b0111001 = .ok (.reset 0x39) := by
  decide

theorem test_decode_seq_states :
    decodeWord .seqState 0b0000 = .ok .idle ∧ decodeWord .seqState 0b0001 = .ok .checkCal ∧
    decodeWord .seqState 0b0010 = .ok .cal1B ∧ decodeWord .seqState 0b0011 = .ok .cal1C ∧
    decodeWord .seqState 0b0100 = .ok .cal1E ∧ decodeWord .seqState 0b0101 = .ok .trigger ∧
    decodeWord .seqState 0b0110 = .ok .wait ∧ decodeWord .seqState 0b0111 = .ok .readData ∧
    decodeWord .seqState 0b1000 = .ok .convert ∧ decodeWord .seqState 0b1001 = .ok .done ∧
    decodeWord .seqState 0b1010 = .ok .failed := by decide

theorem test_decode_bus_reads :
    decodeWord .busRead 0b101110000001 = .ok (.rdStatus 0x38) ∧
    decodeWord .busRead 0b101110001000 = .ok (.rdFrame 0x38) := by decide

theorem test_decode_bus_writes :
    decodeWord .busWrite 0b001110000011000110110000000000000000 = .ok (.wrCal1B 0x38) ∧
    decodeWord .busWrite 0b001110000011000111000000000000000000 = .ok (.wrCal1C 0x38) ∧
    decodeWord .busWrite 0b001110000011000111100000000000000000 = .ok (.wrCal1E 0x38) ∧
    decodeWord .busWrite 0b001110000011101011000011001100000000 = .ok (.wrTrig 0x38) := by decide

theorem test_decode_delay_and_log :
    decodeWord .delayRequest 0b0000000001010000 = .ok .dly80 ∧
    decodeWord .logEvent 0b1 = .ok .logCal := by decide

theorem test_decode_subops :
    decodeWord .convertSubop 0b100000 = .ok .extractH ∧
    decodeWord .convertSubop 0b100001 = .ok .extractT ∧
    decodeWord .convertSubop 0b100010 = .ok .convH ∧
    decodeWord .convertSubop 0b100011 = .ok .convT := by decide

/-- R52, R53, R47: reserved and never-emitted words. -/
theorem test_decode_refuses :
    decodeWord .seqState 0xB = .error .reservedSeq ∧ decodeWord .seqState 0xF = .error .reservedSeq ∧
    decodeWord .busRead 0xB82 = .error .neverEmitted ∧
    decodeWord .busRead 0x381 = .error .neverEmitted ∧
    decodeWord .busWrite 0x3831D0000 = .error .neverEmitted ∧
    decodeWord .busWrite 0x383AC3301 = .error .neverEmitted ∧
    decodeWord .delayRequest 81 = .error .otherDelay ∧
    decodeWord .convertSubop 0b100100 = .error .notConvert ∧
    decodeWord .hostRequest 0 = .error .notAsserted ∧ decodeWord .seqState 0x10 = .error .tooWide := by
  decide

theorem test_decode_bytes :
    decode .busWrite [0x00, 0x33, 0xAC, 0x83, 0x03] = .ok (.wrTrig 0x38) ∧
    encode (.rdFrame 0x7F) = [0xF8, 0x0F] ∧ decode .busRead [0xF8] = .error .wrongLength := by decide

theorem test_decodeTableWord :
    decodeTableWord 8 0x0A = some .failed ∧ decodeTableWord 8 0x0B = none ∧
    decodeTableWord 8 0x21 = some .extractT ∧ decodeTableWord 8 0x38 = some (.reset 0x38) ∧
    decodeTableWord 16 0x0050 = some .dly80 ∧ decodeTableWord 16 0x0B81 = some (.rdStatus 0x38) ∧
    decodeTableWord 40 0x383AC3300 = some (.wrTrig 0x38) ∧ decodeTableWord 1 1 = some .read := by
  decide

/-- Every row of the table, placed after reset, runs in the very next step. -/
theorem test_withFetchWord_runs :
    [(1, 1), (7, 0x39), (8, 0x0), (8, 0x1), (8, 0x2), (8, 0x3), (8, 0x4), (8, 0x5), (8, 0x6), (8, 0x7),
      (8, 0x8), (8, 0x9), (8, 0xA), (16, 0x801), (16, 0x808), (40, 0x0031B0000), (40, 0x0031C0000),
      (40, 0x0031E0000), (40, 0x003AC3300), (16, 0x0050), (8, 0x20), (8, 0x21), (8, 0x22),
      (8, 0x23)].all (fun x => (after (step (State.reset.withFetchWord x.1 x.2))).isSome) = true := by
  decide

/-! ## The flag (95_test_vectors.md V2) -/

theorem test_calOk :
    [0x00, 0x08, 0x10, 0xE7, 0xF7, 0xEF, 0x80].all (fun b => calOk b == false) = true ∧
    [0x18, 0x1C, 0x98, 0xFF].all (fun b => calOk b) = true := by decide

/-! ## One step at a time (95_test_vectors.md P1 to P5, V3, V5) -/

theorem test_idle_accepts_read :
    seqTrace (step (sample 0x0 { read := true })) =
      some (0x1, [.read, .bus ⟨1, 0x38, 1, []⟩]) := by decide

theorem test_read_outside_idle_is_held :
    seqTrace (exec .read (sample 0x6 { read := true })) = some (0x6, []) := by decide

theorem test_checkCal_calibrated :
    seqTrace (step (sample 0x1 { bus := some (.ok [0x1C]) })) =
      some (0x5, [.busOk [0x1C], .bus ⟨0, 0x38, 3, [0xAC, 0x33, 0x00]⟩]) := by decide

theorem test_checkCal_uncalibrated :
    (after (step (sample 0x1 { bus := some (.ok [0x08]) }))).map (fun s => (s.seq, s.logOut)) =
      some (0x2, [.cal]) := by decide

theorem test_cal1B :
    seqTrace (step (sample 0x2 { bus := some (.ok []) })) =
      some (0x3, [.busOk [], .bus ⟨0, 0x38, 3, [0x1C, 0x00, 0x00]⟩]) := by decide

theorem test_cal1C_fails :
    (after (step (sample 0x3 { bus := some (.fail ⟨1⟩) }))).map
        (fun s => (s.seq, s.errKind, s.errVal, s.trace)) =
      some (0xA, .holds 0, .holds ⟨1⟩, [.busFail ⟨1⟩]) := by decide

theorem test_cal1E_triggers_at_once :
    seqTrace (step (sample 0x4 { bus := some (.ok []) })) =
      some (0x5, [.busOk [], .bus ⟨0, 0x38, 3, [0xAC, 0x33, 0x00]⟩]) := by decide

theorem test_trigger :
    seqTrace (step (sample 0x5 { bus := some (.ok []) })) =
      some (0x6, [.busOk [], .delay 0x0050]) := by decide

theorem test_wait :
    seqTrace (step (sample 0x6 { delay := true })) =
      some (0x7, [.delayDone, .bus ⟨1, 0x38, 8, []⟩]) := by decide

theorem test_readData :
    (after (step (sample 0x7 { bus := some (.ok [0, 3, 4, 5, 6, 7, 0, 0]) }))).map
        (fun s => (s.seq, s.frame)) =
      some (0x8, .holds ⟨0, 3, 4, 5, 6, 7, 0, 0⟩) := by decide

theorem test_convert :
    (after (step (withFrame (sample 0x8 {})))).map (fun s => (s.seq, s.hum, s.temp)) =
      some (0x9, .holds (.b64 0x3FF2D90000000000), .holds (.b64 0x402996AF00000000)) := by decide

theorem test_done_accepted :
    seqTrace (step (withReading (sample 0x9 { accept := true }))) =
      some (0x0, [.respOk (.b64 0) (.b64 0x4049000000000000)]) := by decide

theorem test_failed_accepted :
    seqTrace (step (withError (sample 0xA { accept := true }))) = some (0x0, [.respErr ⟨7⟩]) := by
  decide

/-- V5: reset in CAL_1C; the late answer to `WR 1C` is owed, then discarded. -/
theorem test_reset_in_cal1C :
    (after (step (sample 0x3 { reset := some 0x39 }))).map
        (fun s => (s.seq, s.addr, s.owedBus, s.trace)) =
      some (0x0, 0x39, 1, [.reset 0x39]) := by decide

theorem test_late_answer_discarded :
    (after (step { sample 0x0 { lateBus := some (.ok []) } with owedBus := 1 })).map
        (fun s => (s.seq, s.owedBus, s.trace)) = some (0x0, 0, []) := by decide

theorem test_reset_in_done_withdraws :
    (after (step (withReading (sample 0x9 { reset := some 0x38, accept := true })))).map
        (fun s => (s.respValid, s.trace)) = some (false, [.reset 0x38]) := by decide

theorem test_bad_seq : stop (step (sample 0xB {})) = some (.inl .badSeq) := by decide

theorem test_transactions :
    seqTrace (exec (.rdStatus 0x38) (sample 0x0 {})) = some (0x0, [.bus ⟨1, 0x38, 1, []⟩]) ∧
    seqTrace (exec (.rdFrame 0x38) (sample 0x0 {})) = some (0x0, [.bus ⟨1, 0x38, 8, []⟩]) ∧
    seqTrace (exec (.wrCal1B 0x38) (sample 0x0 {})) = some (0x0, [.bus ⟨0, 0x38, 3, [0x1B, 0, 0]⟩]) ∧
    seqTrace (exec (.wrCal1C 0x38) (sample 0x0 {})) = some (0x0, [.bus ⟨0, 0x38, 3, [0x1C, 0, 0]⟩]) ∧
    seqTrace (exec (.wrCal1E 0x38) (sample 0x0 {})) = some (0x0, [.bus ⟨0, 0x38, 3, [0x1E, 0, 0]⟩]) ∧
    seqTrace (exec (.wrTrig 0x38) (sample 0x0 {})) =
      some (0x0, [.bus ⟨0, 0x38, 3, [0xAC, 0x33, 0]⟩]) := by decide

theorem test_delay_and_log :
    seqTrace (exec .dly80 (sample 0x0 {})) = some (0x0, [.delay 80]) ∧
    (after (exec .logCal (sample 0x0 {}))).map (fun s => s.logOut) = some [.cal] := by decide

theorem test_request_words :
    (rdStatusRequest 0x38).word = 0xB81 ∧ (rdFrameRequest 0x38).word = 0xB88 ∧
    (wrTrigRequest 0x38).word = 0x383AC3300 ∧ (wrCal1ERequest 0x38).word = 0x3831E0000 := by decide

/-- R58: `MEASURE a` is `TRIG a ; DLY 80 ; FETCH a`. -/
theorem test_pseudo_measure :
    pseudoMeasure 0x38 = [.bus ⟨0, 0x38, 3, [0xAC, 0x33, 0x00]⟩, .delay 80,
      .bus ⟨1, 0x38, 8, []⟩] := by decide

/-! ## Extraction and conversion (95_test_vectors.md V4, W5) -/

theorem test_extract_subops :
    (after (exec .extractH (withFrame (sample 0x8 {})))).map (fun s => s.rawH) =
      some 0x03040 ∧
    (after (exec .extractT (withFrame (sample 0x8 {})))).map (fun s => s.rawT) =
      some 0x50607 := by decide

theorem test_conv_subops :
    (after (exec .convH { sample 0x8 {} with rawH := 0xA3D71 })).map (fun s => s.hum) =
      some (.holds (.b64 0x4050000090000000)) ∧
    (after (exec .convT { sample 0x8 {} with rawT := 0x00001 })).map (fun s => s.temp) =
      some (.holds (.b64 0xC048FFF9C0000000)) := by decide

theorem test_extract_shared_byte :
    rawHOf ⟨0x1C, 0, 0, 0x1F, 0xFF, 0xFF, 0, 0⟩ = 0x00001 ∧
    rawTOf ⟨0x1C, 0, 0, 0x1F, 0xFF, 0xFF, 0, 0⟩ = 0xFFFFF ∧
    rawHOf ⟨0x98, 0x6B, 0x2C, 0x45, 0xE8, 0x1F, 0xAB, 0xCD⟩ = 0x6B2C4 ∧
    rawTOf ⟨0x98, 0x6B, 0x2C, 0x45, 0xE8, 0x1F, 0xAB, 0xCD⟩ = 0x5E81F := by decide

theorem test_humidity :
    humOf .binary64 0x66666 = .b64 0x4043FFFEC0000000 ∧ humOf .binary32 0x66666 = .b32 0x421FFFF6 ∧
    humOf .binary32 0xA3D71 = .b32 0x42800004 ∧ humOf .binary32 0xA3D72 = .b32 0x42800011 ∧
    humOf .binary32 0x0000F = .b32 0x3ABB8000 := by decide

theorem test_temperature :
    tempOf .binary64 0x5999A = .b64 0x4034000500000000 ∧ tempOf .binary32 0x5999A = .b32 0x41A00028 ∧
    tempOf .binary32 0xA3D71 = .b32 0x429C0008 ∧ tempOf .binary32 0xA3D72 = .b32 0x429C0022 ∧
    tempOf .binary32 0x00001 = .b32 0xC247FFCE := by decide

theorem test_constants :
    constH .binary64 = .b64 0x3F19000000000000 ∧ constT .binary64 = .b64 0x3F29000000000000 ∧
    constH .binary32 = .b32 0x38C80000 ∧ constT .binary32 = .b32 0x39480000 := by decide

/-- The decimal literals of R9 are 25 × 2^-18 and 25 × 2^-17: 95367431640625 × 10^-18 and
19073486328125 × 10^-17. -/
theorem test_literals :
    25 * 10 ^ 18 = 95367431640625 * 2 ^ 18 ∧ 25 * 10 ^ 17 = 19073486328125 * 2 ^ 17 := by decide

/-! ## Witnesses: states and operands that meet the hypotheses of each statement, clause by clause -/

theorem witness_DecodeAcceptsExactlyTheEncodings :
    decode .busRead [0x81, 0x0B] = .ok (.rdStatus 0x38) ∧ (Instr.rdStatus 0x38).format = .busRead ∧
    encode (.rdStatus 0x38) = [0x81, 0x0B] := by decide

theorem witness_StepRunsTheDecodedInstruction :
    (decodeWord .seqState (sample 0xA {}).seq.toNat = .ok .failed ∧
      (sample 0xA {}).now.reset = none ∧ (sample 0xA {}).breach = none) ∧
    (decodeWord .seqState (sample 0x0 { reset := some 0x7F }).seq.toNat = .ok .idle ∧
      (sample 0x0 { reset := some 0x7F }).now.reset = some 0x7F) := by decide

theorem witness_ReservedSeqCodesStopAndAreNeverWritten :
    0xB ≤ (sample 0xB {}).seq.toNat ∧ (withFrame (sample 0x8 {})).seq.toNat ≤ 0xA ∧
    (after (exec .convert (withFrame (sample 0x8 {})))).isSome = true := by decide

theorem witness_ReadIsAcceptedInIdleAndAsksForStatus :
    (sample 0x0 { read := true }).now.read = true ∧ (sample 0x0 {}).now.read = false ∧
    (sample 0x0 {}).seq = 0x0 ∧ (sample 0x1 {}).seq ≠ 0x0 := by decide

theorem witness_CheckCalBranchesOnTheMask :
    ((sample 0x1 { bus := some (.ok [0x18]) }).now.bus = some (.ok [0x18]) ∧
      (0x18 : Byte) &&& 0x18 = 0x18) ∧
    ((sample 0x1 { bus := some (.ok [0xEF]) }).now.bus = some (.ok [0xEF]) ∧
      (0xEF : Byte) &&& 0x18 ≠ 0x18) ∧
    (sample 0x1 { bus := some (.fail ⟨0⟩) }).now.bus = some (.fail ⟨0⟩) ∧
    (sample 0x1 {}).now.bus = none := by decide

theorem witness_CalibrationWritesFollowOneAnother :
    (sample 0x2 { bus := some (.ok []) }).now.bus = some (.ok []) ∧
    (sample 0x2 { bus := some (.fail ⟨0⟩) }).now.bus = some (.fail ⟨0⟩) ∧
    (sample 0x2 {}).now.bus = none := by decide

theorem witness_TriggerStartsTheDelay :
    (sample 0x5 { bus := some (.ok []) }).now.bus = some (.ok []) ∧
    (sample 0x5 { bus := some (.fail ⟨0⟩) }).now.bus = some (.fail ⟨0⟩) ∧
    (sample 0x5 {}).now.bus = none := by decide

theorem witness_DelayCompletionIssuesTheDataRead :
    (sample 0x6 { delay := true }).now.delay = true ∧ (sample 0x6 {}).now.delay = false := by decide

theorem witness_DataReadStoresTheFrameWhole :
    (sample 0x7 { bus := some (.ok [0xFF, 0, 1, 2, 3, 4, 5, 0xFF]) }).now.bus =
      some (.ok [0xFF, 0, 1, 2, 3, 4, 5, 0xFF]) ∧
    (sample 0x7 { bus := some (.fail ⟨0⟩) }).now.bus = some (.fail ⟨0⟩) ∧
    (sample 0x7 {}).now.bus = none := by decide

theorem witness_FailureEntryRecordsTheErrorAndIssuesNothing :
    (sample 0x7 { bus := some (.fail ⟨3⟩) }).now.bus = some (.fail ⟨3⟩) ∧
    Instr.readData ∈ [Instr.checkCal, .cal1B, .cal1C, .cal1E, .trigger, .readData] ∧
    (after (exec .failed (withError (sample 0xA {})))).isSome = true := by decide

theorem witness_ExtractionTakesTheFramesBitFields :
    (withFrame (sample 0x8 {})).frame.get = ⟨0x00, 0x03, 0x04, 0x05, 0x06, 0x07, 0x00, 0x00⟩ := by
  decide

theorem witness_DonePresentsTheReadingUntilAccepted :
    (withReading (sample 0x9 {})).temp.get = .b64 0 ∧
    (withReading (sample 0x9 {})).hum.get = .b64 0x4049000000000000 ∧
    (withReading (sample 0x9 {})).seq = 0x9 ∧ (withReading (sample 0x9 {})).now.accept = false ∧
    (withReading (sample 0x9 { accept := true })).now.accept = true := by decide

theorem witness_FailedPresentsTheErrorUntilAccepted :
    (withError (sample 0xA {})).errKind.get = 0 ∧ (withError (sample 0xA {})).errVal.get = ⟨7⟩ ∧
    (withError (sample 0xA {})).seq = 0xA ∧ (withError (sample 0xA {})).now.accept = false ∧
    (withError (sample 0xA { accept := true })).now.accept = true := by decide

theorem witness_UnraisedErrorKindIsPresentedWithoutAValue :
    { sample 0xA {} with errKind := .holds 1 }.errKind.get = 1 ∧
    { sample 0xA {} with errKind := .holds 1 }.seq = 0xA ∧
    { sample 0xA {} with errKind := .holds 1 }.now.accept = false ∧
    { sample 0xA { accept := true } with errKind := .holds 1 }.errKind.get = 1 ∧
    { sample 0xA { accept := true } with errKind := .holds 1 }.now.accept = true := by decide

theorem witness_ReturnToIdleUnwritesTheRegisters :
    (withReading (sample 0x9 { accept := true })).now.accept = true ∧
    (after (exec .done (withReading (sample 0x9 { accept := true })))).isSome = true ∧
    (after (exec .failed (withError (sample 0xA { accept := true })))).isSome = true := by decide

theorem witness_TransactionsAtAForeignAddressAreRefused :
    (Instr.wrTrig 0x39).wireAddr.isSome = true ∧
    stop (exec (.wrTrig 0x39) (sample 0x0 {})) = some (.inr .foreignAddress) ∧
    (Instr.wrTrig 0x39).wellFormed (sample 0x0 {}).addr = false := by decide

theorem witness_ResponsesOfAnotherLengthAreRefused :
    ((sample 0x1 { bus := some (.ok []) }).now.bus = some (.ok []) ∧ ([] : List Byte).length ≠ 1) ∧
    ((sample 0x7 { bus := some (.ok [1, 2, 3, 4, 5, 6, 7]) }).now.bus =
      some (.ok [1, 2, 3, 4, 5, 6, 7]) ∧ ([1, 2, 3, 4, 5, 6, 7] : List Byte).length ≠ 8) ∧
    ((sample 0x5 { bus := some (.ok [0]) }).now.bus = some (.ok [0]) ∧ ([0] : List Byte) ≠ []) := by
  decide

/-- Both alternatives of the hypothesis: a given address and format, and the power-up reset. -/
theorem witness_ResetGivesTheSpecsValues :
    ((sample 0x0 {}).addr = 0x38 ∧ { sample 0x0 {} with env := [] } = State.afterReset 0x38 .binary64) ∧
    (State.reset = State.reset ∧ Config.addrIn = State.reset.addr) := ⟨⟨rfl, rfl⟩, rfl, rfl⟩

/-- In READ_DATA with the awaited answer, and in WAIT without it. -/
theorem witness_ResetWinsOverEveryOtherInput :
    ((sample 0x6 { reset := some 0x7F, read := true }).seq.toNat ≤ 0xA ∧
      (sample 0x6 { reset := some 0x7F, read := true }).now.reset = some 0x7F ∧
      (sample 0x6 { reset := some 0x7F, read := true }).now.lateBus = none ∧
      (sample 0x6 { reset := some 0x7F, read := true }).now.lateDelay = false ∧
      (after (step (sample 0x6 { reset := some 0x7F, read := true }))).map
        (fun t => (t.seq, t.owedBus, t.owedDelay)) = some (0x0, 0, 1)) ∧
    (sample 0x7 { reset := some 0x00, bus := some (.ok []) }).seq.toNat ≤ 0xA ∧
    (sample 0x7 { reset := some 0x00, bus := some (.ok []) }).now.reset = some 0x00 ∧
    (sample 0x7 { reset := some 0x00, bus := some (.ok []) }).now.lateBus = none ∧
    (sample 0x7 { reset := some 0x00, bus := some (.ok []) }).now.lateDelay = false := by decide

/-- Both clauses, and a step of each that goes on. -/
theorem witness_LateAnswersAreDiscarded :
    ({ read := true } : Inputs).lateBus = none ∧ ({ read := true } : Inputs).lateDelay = false ∧
    (after (step { sample 0x0 { read := true, lateBus := some (.ok [7]) } with owedBus := 1 })).map
      (fun t => (t.seq, t.owedBus)) = some (0x1, 0) ∧
    (after (step { sample 0x0 { read := true, lateDelay := true } with owedDelay := 1 })).map
      (fun t => (t.seq, t.owedDelay)) = some (0x1, 0) := by decide

/-- One for each of the four clauses. -/
theorem witness_UnrequestedAnswersAreRefused :
    ((sample 0x6 { bus := some (.ok []) }).seq.toNat ≤ 0xA ∧
      (sample 0x6 { bus := some (.ok []) }).now.reset = none ∧
      (sample 0x6 { bus := some (.ok []) }).now.bus.isSome = true ∧
      (sample 0x6 { bus := some (.ok []) }).seq ∉
        ([0x1, 0x2, 0x3, 0x4, 0x5, 0x7] : List (BitVec 4))) ∧
    ((sample 0x0 { lateBus := some (.ok []) }).now.lateBus.isSome = true ∧
      (sample 0x0 { lateBus := some (.ok []) }).owedBus = 0) ∧
    ((sample 0x7 { delay := true }).now.bus.isSome = false ∧
      (sample 0x7 { delay := true }).now.lateBus.isSome = false ∧
      (sample 0x7 { delay := true }).now.delay = true ∧ (sample 0x7 { delay := true }).seq ≠ 0x6) ∧
    ((sample 0x0 { lateDelay := true }).now.bus.isSome = false ∧
      (sample 0x0 { lateDelay := true }).now.lateBus.isSome = false ∧
      (sample 0x0 { lateDelay := true }).now.lateDelay = true ∧
      (sample 0x0 { lateDelay := true }).owedDelay = 0) := by decide

theorem sample_inv (c : BitVec 4) (i : Inputs) (h : c.toNat ≤ 0x7) : (sample c i).Inv where
  seqLegal := by simp only [sample]; omega
  frameReady hc := by simp only [sample] at hc; subst hc; simp at h
  readingReady hc := by simp only [sample] at hc; subst hc; simp at h
  errorReady hc := by simp only [sample] at hc; subst hc; simp at h
  noTooFast := nofun
  oneFormat := ⟨rfl, rfl⟩
  codesLocal := ⟨rfl, rfl⟩

/-- The hypotheses of WaitsKeepAllState on the one input of a state. -/
def waits (s : State) : Prop :=
  s.seq ≠ 0x8 ∧ ∀ i ∈ s.env, i.reset = none ∧ i.bus = none ∧ i.delay = false ∧ i.lateBus = none ∧
    i.lateDelay = false ∧ (s.seq = 0x0 → i.read = false) ∧
    (s.seq = 0x9 ∨ s.seq = 0xA → i.accept = false)

theorem error_inv (i : Inputs) : (withError (sample 0xA i)).Inv where
  seqLegal := (by decide : (0xA : BitVec 4).toNat ≤ 0xA)
  frameReady h := by cases h
  readingReady h := by cases h
  errorReady _ := ⟨rfl, ⟨7⟩, rfl⟩
  noTooFast := nofun
  oneFormat := ⟨rfl, rfl⟩
  codesLocal := ⟨rfl, rfl⟩

/-- IDLE with an accept, WAIT with a READ and an accept, FAILED with a READ. -/
theorem witness_WaitsKeepAllState :
    ((sample 0x0 { accept := true }).Inv ∧ waits (sample 0x0 { accept := true })) ∧
    ((sample 0x6 { read := true, accept := true }).Inv ∧
      waits (sample 0x6 { read := true, accept := true })) ∧
    (withError (sample 0xA { read := true })).Inv ∧ waits (withError (sample 0xA { read := true })) :=
  ⟨⟨sample_inv 0x0 _ (by decide), by unfold waits; decide⟩,
    ⟨sample_inv 0x6 _ (by decide), by unfold waits; decide⟩, error_inv _, by unfold waits; decide⟩

theorem witness_AddrIsWrittenByResetOnly :
    (after (exec .trigger (sample 0x5 { bus := some (.ok []) }))).isSome = true ∧
    (after (exec .idle (sample 0x0 { read := true }))).isSome = true ∧ ∀ a, Instr.idle ≠ .reset a := by
  refine ⟨by decide, by decide, ?_⟩
  intro a h; cases h

theorem witness_EveryRegisterHasItsWriters :
    (after (exec .checkCal (sample 0x1 { bus := some (.ok [0x18]) }))).isSome = true ∧
    (∀ a, Instr.checkCal ≠ .reset a) ∧ Instr.checkCal ≠ .done ∧ Instr.checkCal ≠ .failed := by
  refine ⟨by decide, ?_, by decide, by decide⟩
  intro a h; cases h

theorem witness_ReadTooFastIsNeverRaised :
    (after (exec .idle { sample 0x0 {} with errKind := .holds 1 })).map (fun t => t.errKind) =
      some (.holds 1) := by decide

/-- For MovingSeqIssuesTheRequestItWaitsOn and ReadIsAcceptedInIdleOnly. -/
theorem witness_steps :
    (after (step (sample 0x0 { read := true }))).map (fun t => t.seq) = some 0x1 ∧
    (after (step (sample 0x0 {}))).map (fun t => t.seq) = some 0x0 := by decide

theorem witness_OnlyTheTablesRequestsAreEmitted :
    (after (exec .dly80 (sample 0x5 {}))).isSome = true := by decide

theorem witness_ResponseIsHeldUntilAccepted :
    (after (step (withReading (sample 0x9 { read := true })))).isSome = true ∧
    (withReading (sample 0x9 { read := true })).respValid = true ∧
    (withReading (sample 0x9 { read := true })).now.accept = false ∧
    (withReading (sample 0x9 { read := true })).now.reset = none := by decide

/-- For RegisterInvariantIsKept and NoStepFaultsUnderTheInvariant. -/
theorem witness_RegisterInvariantIsKept :
    (sample 0x7 { bus := some (.ok [0, 3, 4, 5, 6, 7, 0, 0]) }).Inv ∧
    (after (step (sample 0x7 { bus := some (.ok [0, 3, 4, 5, 6, 7, 0, 0]) }))).isSome = true :=
  ⟨sample_inv _ _ (by decide), by decide⟩

theorem witness_ProtocolIsKept :
    (sample 0x0 { read := true }).Inv ∧ (sample 0x0 { read := true }).Conforms ∧
    (after (step (sample 0x0 { read := true }))).isSome = true :=
  ⟨sample_inv _ _ (by decide), ⟨[], [], rfl, .start _, rfl⟩, by decide⟩

/-- Two idle blocks that differ in what an earlier READ left. -/
theorem witness_NothingOfOneReadReachesTheNext :
    SameWhereRead (withError (withReading (withFrame (sample 0x0 { read := true }))))
      (sample 0x0 { read := true }) := by
  constructor <;> first | rfl | (intro h; exact absurd h (by decide))

/-- Two states that differ in the free value of FRAME. -/
theorem witness_UnwrittenValuesReachNothing :
    (sample 0x0 { read := true }).Inv ∧
    SameIfWritten (sample 0x0 { read := true })
      { sample 0x0 { read := true } with frame := .unwritten ⟨1, 2, 3, 4, 5, 6, 7, 8⟩ } :=
  ⟨sample_inv 0x0 _ (by decide),
    { seq := rfl, addr := rfl, fmt := rfl, env := rfl, owedBus := rfl, owedDelay := rfl, trace := rfl,
      logOut := rfl, codes := ⟨rfl, rfl⟩, frame := .inr ⟨⟨_, rfl⟩, ⟨_, rfl⟩⟩, hum := .inl rfl,
      temp := .inl rfl, errKind := .inl rfl, errVal := .inl rfl }⟩

theorem witness_ErrorValuesAreNeverInspected :
    (withError (sample 0xA { accept := true })).Inv := error_inv _

theorem witness_UnusedFrameBitsNeverMatter :
    let f : Frame := ⟨0x98, 1, 2, 0xAB, 4, 5, 0xFF, 0xFF⟩
    let g : Frame := ⟨0x1C, 1, 2, 0xAC, 4, 5, 0x00, 0x00⟩
    f.b1 = g.b1 ∧ f.b2 = g.b2 ∧ f.b4 = g.b4 ∧ f.b5 = g.b5 ∧
    f.b3.extractLsb' 4 4 = g.b3.extractLsb' 4 4 := by decide

theorem witness_Binary32RoundsToMultiplesOfFour :
    ((0xA3D71 : Code).toNat % 2 = 1 ∧ 0xA3D71 ≤ (0xA3D71 : Code).toNat) ∧
    ¬((0xA3D70 : Code).toNat % 2 = 1 ∧ 0xA3D71 ≤ (0xA3D70 : Code).toNat) := by decide

theorem witness_CalibratedReadDeliversItsReading :
    let f : Frame := ⟨0, 3, 4, 5, 6, 7, 0, 0⟩
    let s : State := { sample 0x0 {} with
      env := [{ read := true }, { bus := some (.ok [0x18]) }, { bus := some (.ok []) },
        { delay := true }, { bus := some (.ok f.bytes) }, ({} : Inputs), { accept := true }] ++ [] }
    s.seq = 0x0 ∧ (0x18 : Byte) &&& 0x18 = 0x18 := by decide

theorem witness_UncalibratedReadCalibratesFirst :
    let f : Frame := ⟨0x1C, 0xFF, 0xFF, 0xFF, 0xFF, 0xFF, 0xFF, 0xFF⟩
    let s : State := { sample 0x0 {} with
      env := [{ read := true }, { bus := some (.ok [0x10]) }, { bus := some (.ok []) },
        { bus := some (.ok []) }, { bus := some (.ok []) }, { bus := some (.ok []) },
        { delay := true }, { bus := some (.ok f.bytes) }, ({} : Inputs), { accept := true }] ++ [] }
    s.seq = 0x0 ∧ (0x10 : Byte) &&& 0x18 ≠ 0x18 := by decide

end Sys2Proof.Tests
end

section
namespace Sys2Proof.Machine

/-! ## What an instruction can do

Every instruction that moves on to a request does so in one form: it notes what arrived, moves SEQ
and issues the request the new SEQ waits on. -/

/-- `Proceeds s i e c q`: in `s` the instruction `i` takes what arrives as `e`, moves SEQ to `c`
and issues `q` there. -/
inductive Proceeds (s : State) : Instr → Event → BitVec 4 → Event → Prop where
  | read : s.seq = 0x0 → Proceeds s .read .read seqCheckCal (.bus (rdStatusRequest s.addr))
  | idle : s.now.read = true →
      Proceeds s .idle .read seqCheckCal (.bus (rdStatusRequest s.addr))
  | calibrated {b : Byte} : s.now.bus = some (.ok [b]) → calOk b = true →
      Proceeds s .checkCal (.busOk [b]) seqTrigger (.bus (wrTrigRequest s.addr))
  | cal1B : s.now.bus = some (.ok []) →
      Proceeds s .cal1B (.busOk []) seqCal1C (.bus (wrCal1CRequest s.addr))
  | cal1C : s.now.bus = some (.ok []) →
      Proceeds s .cal1C (.busOk []) seqCal1E (.bus (wrCal1ERequest s.addr))
  | cal1E : s.now.bus = some (.ok []) →
      Proceeds s .cal1E (.busOk []) seqTrigger (.bus (wrTrigRequest s.addr))
  | trigger : s.now.bus = some (.ok []) → Proceeds s .trigger (.busOk []) seqWait (.delay delayMs)
  | wait : s.now.delay = true →
      Proceeds s .wait .delayDone seqReadData (.bus (rdFrameRequest s.addr))

/-- The instructions that issue one request and nothing else. -/
inductive Issues (s : State) : Instr → Event → Prop where
  | rdStatus : Issues s (.rdStatus s.addr) (.bus (rdStatusRequest s.addr))
  | rdFrame : Issues s (.rdFrame s.addr) (.bus (rdFrameRequest s.addr))
  | wrCal1B : Issues s (.wrCal1B s.addr) (.bus (wrCal1BRequest s.addr))
  | wrCal1C : Issues s (.wrCal1C s.addr) (.bus (wrCal1CRequest s.addr))
  | wrCal1E : Issues s (.wrCal1E s.addr) (.bus (wrCal1ERequest s.addr))
  | wrTrig : Issues s (.wrTrig s.addr) (.bus (wrTrigRequest s.addr))
  | dly80 : Issues s .dly80 (.delay delayMs)

/-- The micro-operations that receive a bus response. -/
def receivers : List Instr := [.checkCal, .cal1B, .cal1C, .cal1E, .trigger, .readData]

/-- The next states of the instruction `i` in `s`. When an instruction stays, for want of its input
or of IDLE, is said by the `_eq_next` lemma of its meaning. -/
inductive Effect (i : Instr) (s : State) : State → Prop where
  | stay : Effect i s s
  | reset (a : Addr) : i = .reset a → Effect i s (s.resetTo a)
  | proceed (e : Event) (c : BitVec 4) (q : Event) : Proceeds s i e c q →
      Effect i s (((s.emit e).goto c).emit q)
  | recalibrate (b : Byte) : i = .checkCal → s.now.bus = some (.ok [b]) → calOk b = false →
      Effect i s (((s.emitLog.emit (.busOk [b])).goto seqCal1B).emit (.bus (wrCal1BRequest s.addr)))
  | fail (e : TransportErr) : i ∈ receivers → s.now.bus = some (.fail e) →
      Effect i s ((s.emit (.busFail e)).raiseTransportError e)
  | receive (f : Frame) : i = .readData → s.now.bus = some (.ok f.bytes) →
      Effect i s (((s.emit (.busOk f.bytes)).setFrame f).goto seqConvert)
  | convert : i = .convert → Effect i s
      (((s.setHum (humOf s.fmt (rawHOf s.frame.get))).setTemp
        (tempOf s.fmt (rawTOf s.frame.get))).dropCodes.goto seqDone)
  | respond (r : HostResponse) :
      i = .done ∧ r = .ok s.temp.get s.hum.get ∨ i = .failed ∧ r = s.errorResponse →
      s.now.accept = true → Effect i s (s.emit r.event).returnToIdle
  | issue (q : Event) : Issues s i q → Effect i s (s.emit q)
  | logCal : i = .logCal → Effect i s s.emitLog
  | extractH : i = .extractH → Effect i s (s.setRawH (rawHOf s.frame.get))
  | extractT : i = .extractT → Effect i s (s.setRawT (rawTOf s.frame.get))
  | convH : i = .convH → Effect i s (s.setHum (humOf s.fmt s.rawH))
  | convT : i = .convT → Effect i s (s.setTemp (tempOf s.fmt s.rawT))

/-- The next states of a receiver: it waits, it fails, or it goes on as `hok` says. -/
theorem effect_of_response {i : Instr} {s t : State} {P : Prop} (hi : i ∈ receivers)
    (hok : P → Effect i s t)
    (h : (s.now.bus = none ∧ t = s) ∨
      (∃ e, s.now.bus = some (.fail e) ∧ t = (s.emit (.busFail e)).raiseTransportError e) ∨ P) :
    Effect i s t := by
  rcases h with ⟨-, rfl⟩ | ⟨e, he, rfl⟩ | hp
  · exact .stay
  · exact .fail e hi he
  · exact hok hp

theorem execCheckCal_effect {s t : State} (h : execCheckCal s = .next t) :
    Effect .checkCal s t := by
  refine effect_of_response (by decide) ?_ (execCheckCal_eq_next h)
  rintro ⟨b, hb, rfl⟩
  unfold afterStatus
  cases hc : calOk b with
  | true => exact .proceed _ _ _ (.calibrated hb hc)
  | false => exact .recalibrate b rfl hb hc

theorem respond_effect {i : Instr} {r : HostResponse} {s t : State}
    (hi : i = .done ∧ r = .ok s.temp.get s.hum.get ∨ i = .failed ∧ r = s.errorResponse)
    (h : respond r s = .next t) : Effect i s t := by
  rcases respond_eq_next h with ⟨ha, rfl⟩ | ⟨-, rfl⟩
  · exact .respond r hi ha
  · exact .stay

theorem wireTransaction_effect {i : Instr} {a : Addr} {q : BusRequest} {s t : State}
    (hi : a = s.addr → Issues s i (.bus q)) (h : wireTransaction a q s = .next t) :
    Effect i s t := by
  obtain ⟨ha, rfl⟩ := wireTransaction_eq_next h
  exact .issue _ (hi ha)

/-- Everything an instruction can do. -/
theorem exec_effect {i : Instr} {s t : State} (h : exec i s = .next t) : Effect i s t := by
  cases i with
  | read =>
    rcases execRead_eq_next h with ⟨hs, rfl⟩ | ⟨-, rfl⟩
    · exact .proceed _ _ _ (.read hs)
    · exact .stay
  | reset a => cases h; exact .reset a rfl
  | idle =>
    rcases execIdle_eq_next h with ⟨hr, rfl⟩ | ⟨-, rfl⟩
    · exact .proceed _ _ _ (.idle hr)
    · exact .stay
  | checkCal => exact execCheckCal_effect h
  | cal1B =>
    refine effect_of_response (by decide) ?_ (execCal1B_eq_next h)
    rintro ⟨hb, rfl⟩; exact .proceed _ _ _ (.cal1B hb)
  | cal1C =>
    refine effect_of_response (by decide) ?_ (execCal1C_eq_next h)
    rintro ⟨hb, rfl⟩; exact .proceed _ _ _ (.cal1C hb)
  | cal1E =>
    refine effect_of_response (by decide) ?_ (execCal1E_eq_next h)
    rintro ⟨hb, rfl⟩; exact .proceed _ _ _ (.cal1E hb)
  | trigger =>
    refine effect_of_response (by decide) ?_ (execTrigger_eq_next h)
    rintro ⟨hb, rfl⟩; exact .proceed _ _ _ (.trigger hb)
  | wait =>
    rcases execWait_eq_next h with ⟨hd, rfl⟩ | ⟨-, rfl⟩
    · exact .proceed _ _ _ (.wait hd)
    · exact .stay
  | readData =>
    refine effect_of_response (by decide) ?_ (execReadData_eq_next h)
    rintro ⟨f, hb, rfl⟩; exact .receive f rfl hb
  | convert => cases h; exact .convert rfl
  | done => exact respond_effect (.inl ⟨rfl, rfl⟩) h
  | failed => exact respond_effect (.inr ⟨rfl, rfl⟩) h
  | rdStatus a => exact wireTransaction_effect (fun ha => ha ▸ .rdStatus) h
  | rdFrame a => exact wireTransaction_effect (fun ha => ha ▸ .rdFrame) h
  | wrCal1B a => exact wireTransaction_effect (fun ha => ha ▸ .wrCal1B) h
  | wrCal1C a => exact wireTransaction_effect (fun ha => ha ▸ .wrCal1C) h
  | wrCal1E a => exact wireTransaction_effect (fun ha => ha ▸ .wrCal1E) h
  | wrTrig a => exact wireTransaction_effect (fun ha => ha ▸ .wrTrig) h
  | dly80 => cases h; exact .issue _ .dly80
  | logCal => cases h; exact .logCal rfl
  | extractH => cases h; exact .extractH rfl
  | extractT => cases h; exact .extractT rfl
  | convH => cases h; exact .convH rfl
  | convT => cases h; exact .convT rfl

/-! ## SEQ and the instruction it names -/

/-- SEQ names micro-operations only (R51). -/
theorem decodeSeq_format {n : Nat} {i : Instr} (h : decodeSeq n = .ok i) :
    i.format = .seqState := by
  unfold decodeSeq at h
  split at h <;> cases h <;> rfl

theorem decodeSeq_convert {c : BitVec 4} (h : decodeSeq c.toNat = .ok .convert) : c = 0x8 := by
  simpa using decodeSeq_eq_ok h

section
variable {s : State} {i : Instr} {e q : Event} {c : BitVec 4} (h : Proceeds s i e c q)
include h

theorem Proceeds.seq_lt : c.toNat < 0x8 := by cases h <;> decide

/-- SEQ does not stay where it is. -/
theorem Proceeds.seq_ne (hi : decodeSeq s.seq.toNat = .ok i) : c ≠ s.seq := by
  have hc : decodeSeq c.toNat ≠ .ok i := by cases h <;> exact nofun
  rintro rfl
  exact hc hi

/-- What is issued is what the new SEQ waits on (R27). -/
theorem Proceeds.requestsIn_eq {t : State} (hs : t.seq = c) (ha : t.addr = s.addr) :
    requestsIn [e, q] = t.outstanding.toList := by
  unfold State.outstanding
  rw [hs, ha]
  cases h <;> rfl
end

/-! ## The register invariant -/

theorem afterReset_inv (a : Addr) (f : FpFormat) : (State.afterReset a f).Inv where
  seqLegal := by simp
  frameReady := nofun
  readingReady := nofun
  errorReady := nofun
  noTooFast := by simp
  oneFormat := by simp
  codesLocal := ⟨rfl, rfl⟩

theorem resetTo_inv (a : Addr) (s : State) : (s.resetTo a).Inv := { afterReset_inv a s.fmt with }

section
variable {s : State} (h : s.Inv)
include h

theorem State.Inv.emit (e : Event) : (s.emit e).Inv := { h with }

theorem State.Inv.emitLog : s.emitLog.Inv := { h with }

theorem State.Inv.advance (i : Inputs) : (s.advance i).Inv := { h with }

/-- Away from CONVERT, DONE and FAILED nothing is asked of the registers. -/
theorem State.Inv.goto {c : BitVec 4} (hc : c.toNat < 0x8) : (s.goto c).Inv :=
  { h with
    seqLegal := by simp only [goto_seq]; omega
    frameReady := fun he => by cases he; simp at hc
    readingReady := fun he => by cases he; simp at hc
    errorReady := fun he => by cases he; simp at hc }

theorem State.Inv.raiseTransportError (e : TransportErr) : (s.raiseTransportError e).Inv :=
  { h with
    seqLegal := by simp [seqFailed], frameReady := nofun, readingReady := nofun
    errorReady := fun _ => ⟨rfl, e, rfl⟩
    noTooFast := by simp [errTransport] }

theorem State.Inv.receive (f : Frame) : ((s.setFrame f).goto seqConvert).Inv :=
  { h with
    seqLegal := by simp [seqConvert], readingReady := nofun, errorReady := nofun
    frameReady := fun _ => ⟨f, rfl⟩ }

theorem State.Inv.returnToIdle : s.returnToIdle.Inv :=
  { h with
    seqLegal := by simp [seqIdle], frameReady := nofun, readingReady := nofun, errorReady := nofun
    noTooFast := by simp
    oneFormat := by simp [State.returnToIdle] }

theorem execConvert_inv (hs : s.seq = 0x8) {t : State} (ht : execConvert s = .next t) : t.Inv := by
  obtain ⟨f, hf⟩ := h.frameReady hs
  rw [execConvert_eq_next ht]
  exact { h with
    seqLegal := by simp [seqDone], frameReady := nofun, errorReady := nofun
    readingReady := fun _ => ⟨f, by simp [hf]⟩
    oneFormat := by simp
    codesLocal := ⟨rfl, rfl⟩ }
end

theorem Effect.inv {i : Instr} {s t : State} (hs : s.Inv) (hi : decodeSeq s.seq.toNat = .ok i)
    (h : Effect i s t) : t.Inv := by
  cases h with
  | stay => exact hs
  | reset a => exact resetTo_inv a s
  | proceed e c q hp => exact ((hs.emit e).goto hp.seq_lt).emit q
  | recalibrate b => exact ((hs.emitLog.emit _).goto (by decide)).emit _
  | fail e => exact (hs.emit _).raiseTransportError e
  | receive f => exact (hs.emit _).receive f
  | convert hc => subst hc; exact execConvert_inv hs (decodeSeq_convert hi) rfl
  | respond r => exact (hs.emit _).returnToIdle
  | issue q => exact hs.emit q
  | logCal => exact hs.emitLog
  | extractH hc | extractT hc | convH hc | convT hc => subst hc; cases decodeSeq_format hi

/-- Settles O40: by the effects of the micro-operation that SEQ names. -/
theorem registerInvariantIsKept : Obligations.RegisterInvariantIsKept := by
  intro s t hs h
  rcases step_cases h with ⟨a, -, -, rfl⟩ | ⟨-, -, i, u, hi, hx, rfl⟩
  · exact (resetTo_inv a s).advance _
  · exact ((exec_effect hx).inv hs hi).advance _

/-- Settles O39: SEQ is IDLE, and the unwritten results are in the format of the block. -/
theorem registerInvariantHoldsAtReset : Obligations.RegisterInvariantHoldsAtReset :=
  ⟨afterReset_inv _ _, afterReset_inv⟩

/-! ## Requests -/

/-- From `s` to `t` exactly the request that a moved SEQ waits on is issued, and none if SEQ stays
(R27, R37). -/
def IssuesWhatItWaitsOn (s t : State) : Prop :=
  ∃ new, t.trace = s.trace ++ new ∧ (t.seq ≠ s.seq → requestsIn new = t.outstanding.toList) ∧
    (t.seq = s.seq → requestsIn new = [])

/-- Where SEQ does not move, or moves to where nothing is waited on, no request may be issued. -/
theorem issues_nothing {s t : State} {new : List Event} (htrace : t.trace = s.trace ++ new)
    (hnew : requestsIn new = []) (ht : t.outstanding = none ∨ t.seq = s.seq) :
    IssuesWhatItWaitsOn s t := by
  refine ⟨new, htrace, fun hne => ?_, fun _ => hnew⟩
  rcases ht with hnone | heq
  · rw [hnew, hnone]; rfl
  · exact absurd heq hne

theorem HostResponse.requestsIn_event (r : HostResponse) : requestsIn [r.event] = [] := by
  cases r <;> rfl

theorem Effect.issues {i : Instr} {s t : State} (hi : decodeSeq s.seq.toNat = .ok i)
    (h : Effect i s t) : IssuesWhatItWaitsOn s t := by
  cases h with
  | stay => exact issues_nothing (new := []) (by simp) rfl (.inr rfl)
  | reset a => exact issues_nothing (new := [.reset a]) (by simp) rfl (.inl rfl)
  | proceed e c q hp =>
    exact ⟨[e, q], by simp, fun _ => hp.requestsIn_eq rfl rfl, fun hs => absurd hs (hp.seq_ne hi)⟩
  | recalibrate b hc =>
    subst hc
    refine ⟨[.busOk [b], .bus (wrCal1BRequest s.addr)], by simp, fun _ => rfl, fun hs => ?_⟩
    rw [← hs] at hi
    cases hi
  | fail e => exact issues_nothing (new := [.busFail e]) (by simp) rfl (.inl rfl)
  | receive f => exact issues_nothing (new := [.busOk f.bytes]) (by simp) rfl (.inl rfl)
  | convert => exact issues_nothing (new := []) (by simp) rfl (.inl rfl)
  | respond r => exact issues_nothing (new := [r.event]) (by simp) r.requestsIn_event (.inl rfl)
  | issue q hq => cases hq <;> cases decodeSeq_format hi
  | logCal hc | extractH hc | extractT hc | convH hc | convT hc =>
    subst hc; cases decodeSeq_format hi

/-- Settles O35: by the effects of the micro-operation that SEQ names. -/
theorem movingSeqIssuesTheRequestItWaitsOn : Obligations.MovingSeqIssuesTheRequestItWaitsOn := by
  intro s t h
  rcases step_cases h with ⟨a, -, -, rfl⟩ | ⟨-, -, i, u, hi, hx, rfl⟩
  · exact issues_nothing (new := [.reset a]) (by simp) rfl (.inl rfl)
  · obtain ⟨new, hnew⟩ := (exec_effect hx).issues hi
    exact ⟨new, hnew⟩

/-- What may stand on the ports at the address `a`: of the requests, those of the table (R53) and
the one delay (R47). -/
def Event.Allowed (a : Addr) : Event → Prop
  | .bus r => r ∈ tableRequests a
  | .delay ms => ms = delayMs
  | .reset _ | .read | .busOk _ | .busFail _ | .delayDone | .respOk _ _ | .respErr _
  | .respTooFast => True

theorem tableRequests_eq (a : Addr) :
    tableRequests a = [rdStatusRequest a, rdFrameRequest a, wrCal1BRequest a, wrCal1CRequest a,
      wrCal1ERequest a, wrTrigRequest a] := rfl

theorem tableRequests_addr {a : Addr} {r : BusRequest} (h : r ∈ tableRequests a) : r.addr = a := by
  simp only [tableRequests, List.mem_cons, List.not_mem_nil, or_false] at h
  rcases h with rfl | rfl | rfl | rfl | rfl | rfl <;> rfl

theorem HostResponse.event_allowed (a : Addr) (r : HostResponse) : r.event.Allowed a := by
  cases r <;> trivial

theorem Issues.allowed {s : State} {i : Instr} {q : Event} (h : Issues s i q) :
    q.Allowed s.addr := by
  cases h <;> simp [Event.Allowed, tableRequests_eq]

theorem Proceeds.allowed {s : State} {i : Instr} {e q : Event} {c : BitVec 4}
    (h : Proceeds s i e c q) : ∀ x ∈ [e, q], x.Allowed s.addr := by
  cases h <;> simp [Event.Allowed, tableRequests_eq]

/-- The trace only grows, by events that may stand on the ports. -/
theorem Effect.trace {i : Instr} {s t : State} (h : Effect i s t) :
    ∃ new, t.trace = s.trace ++ new ∧ ∀ x ∈ new, x.Allowed s.addr := by
  cases h with
  | stay | convert | logCal | extractH | extractT | convH | convT => exact ⟨[], by simp⟩
  | reset a => exact ⟨[.reset a], by simp [Event.Allowed]⟩
  | proceed e c q hp => exact ⟨[e, q], by simp, hp.allowed⟩
  | recalibrate b =>
    exact ⟨[.busOk [b], .bus (wrCal1BRequest s.addr)], by simp [Event.Allowed, tableRequests_eq]⟩
  | fail e => exact ⟨[.busFail e], by simp [Event.Allowed]⟩
  | receive f => exact ⟨[.busOk f.bytes], by simp [Event.Allowed]⟩
  | respond r => exact ⟨[r.event], by simp [r.event_allowed]⟩
  | issue q hq => exact ⟨[q], by simp [hq.allowed]⟩

theorem Effect.addr {i : Instr} {s t : State} (h : Effect i s t) (hi : ∀ a, i ≠ .reset a) :
    t.addr = s.addr := by
  cases h with
  | reset a ha => exact absurd ha (hi a)
  | _ => rfl

/-- Settles O32: only the reset effect writes ADDR, and what is issued is a request of the table. -/
theorem addrIsWrittenByResetOnly : Obligations.AddrIsWrittenByResetOnly := by
  refine ⟨fun a s => ⟨s.resetTo a, rfl, rfl⟩, fun i s t h => ⟨(exec_effect h).addr, ?_⟩⟩
  obtain ⟨new, htrace, hnew⟩ := (exec_effect h).trace
  exact ⟨new, htrace, fun r hr => tableRequests_addr (hnew _ hr)⟩

/-! ## Writers of the registers -/

/-- Settles O33: by what each effect writes. -/
theorem everyRegisterHasItsWriters : Obligations.EveryRegisterHasItsWriters := by
  intro i s t h hreset hdone hfailed
  cases exec_effect h with
  | stay | proceed => simp
  | reset a hi => exact absurd hi (hreset a)
  | recalibrate b hi | convert hi | logCal hi | extractH hi | extractT hi | convH hi | convT hi =>
    subst hi; simp
  | fail e hi hb =>
    simp only [receivers, List.mem_cons, List.not_mem_nil, or_false] at hi
    simp [hb, hi]
  | receive f hi => subst hi; simp
  | respond r hi => simp [hdone, hfailed] at hi
  | issue q => simp

/-! ## No faults -/

/-- An instruction that takes its input or waits for it. -/
theorem ite_next_ne_fault (p : Prop) [Decidable p] (u v : State) (x : Fault) :
    (if p then .next u else .next v : Result) ≠ .fault x := by
  split <;> exact nofun

theorem wireTransaction_ne_fault (a : Addr) (q : BusRequest) (s : State) (x : Fault) :
    wireTransaction a q s ≠ .fault x := by
  unfold wireTransaction
  split <;> exact nofun

theorem onBusResponse_ne_fault {k : List Byte → State → Result} {s : State} {x : Fault}
    (hk : ∀ bs t, k bs t ≠ .fault x) : onBusResponse k s ≠ .fault x := by
  unfold onBusResponse
  split
  · exact nofun
  · exact nofun
  · exact hk _ _

theorem onWriteResponse_ne_fault (k : State → State) (s : State) (x : Fault) :
    onWriteResponse k s ≠ .fault x :=
  onBusResponse_ne_fault fun bs _ => by cases bs <;> exact nofun

theorem execCheckCal_ne_fault (s : State) (x : Fault) : execCheckCal s ≠ .fault x :=
  onBusResponse_ne_fault fun bs _ =>
    match bs with
    | [] | [_] | _ :: _ :: _ => nofun

theorem execReadData_ne_fault (s : State) (x : Fault) : execReadData s ≠ .fault x := by
  refine onBusResponse_ne_fault fun bs t => ?_
  split <;> exact nofun

/-- Settles O17: each shared operation answers a next state or a refusal. -/
theorem noInstructionFaults : Obligations.NoInstructionFaults := by
  intro i s x
  cases i with
  | read | idle | wait | done | failed => exact ite_next_ne_fault _ _ _ x
  | checkCal => exact execCheckCal_ne_fault s x
  | readData => exact execReadData_ne_fault s x
  | cal1B | cal1C | cal1E | trigger =>
    simp only [exec_cal1B, exec_cal1C, exec_cal1E, exec_trigger, execCal1B, execCal1C, execCal1E,
      execTrigger]
    exact onWriteResponse_ne_fault _ s x
  | rdStatus | rdFrame | wrCal1B | wrCal1C | wrCal1E | wrTrig =>
    exact wireTransaction_ne_fault _ _ s x
  | reset | convert | dly80 | logCal | extractH | extractT | convH | convT => exact nofun

/-! ## The step, reset, the flag and the status outputs -/

theorem decodeSeq_of_decodeWord {n : Nat} {i : Instr} (h : decodeWord .seqState n = .ok i) :
    decodeSeq n = .ok i := by
  unfold decodeWord at h
  split at h
  · exact h
  · cases h

/-- Settles O5: `fetch` gives the decoded instruction, or RESET. -/
theorem stepRunsTheDecodedInstruction : Obligations.StepRunsTheDecodedInstruction := by
  constructor
  · intro s i hi hr hb
    simp [step, State.fetch, decodeSeq_of_decodeWord hi, hr, hb]
  · intro s i a hi hr
    simp [step, State.fetch, decodeSeq_of_decodeWord hi, hr]

/-- Settles O24: by the definition of the state after reset. -/
theorem resetGivesTheSpecsValues : Obligations.ResetGivesTheSpecsValues := by
  refine ⟨rfl, ?_⟩
  rintro a f s (rfl | ⟨rfl, rfl⟩) <;> exact ⟨rfl, rfl, rfl, rfl, rfl, rfl, rfl, rfl, rfl⟩

/-- Settles O30: over the 256 status bytes. -/
theorem calOkIsBitsThreeAndFour : Obligations.CalOkIsBitsThreeAndFour := by
  unfold Obligations.CalOkIsBitsThreeAndFour
  decide

/-- Settles O31: by the codes of IDLE, DONE and FAILED. -/
theorem statusOutputsFollowSeq : Obligations.StatusOutputsFollowSeq := by
  intro s
  simp [State.hostReady, State.respValid, seqIdle, seqDone, seqFailed]

end Sys2Proof.Machine
end

section
namespace Sys2Proof.Machine

/-! ## Renaming the transport's errors on the ports -/

@[simp] theorem Inputs.rename_reset (g : TransportErr → TransportErr) (i : Inputs) :
    (i.rename g).reset = i.reset := rfl
@[simp] theorem Inputs.rename_read (g : TransportErr → TransportErr) (i : Inputs) :
    (i.rename g).read = i.read := rfl
@[simp] theorem Inputs.rename_accept (g : TransportErr → TransportErr) (i : Inputs) :
    (i.rename g).accept = i.accept := rfl
@[simp] theorem Inputs.rename_bus (g : TransportErr → TransportErr) (i : Inputs) :
    (i.rename g).bus = i.bus.map (BusResponse.rename g) := rfl
@[simp] theorem Inputs.rename_delay (g : TransportErr → TransportErr) (i : Inputs) :
    (i.rename g).delay = i.delay := rfl
@[simp] theorem Inputs.rename_lateBus (g : TransportErr → TransportErr) (i : Inputs) :
    (i.rename g).lateBus = i.lateBus.map (BusResponse.rename g) := rfl
@[simp] theorem Inputs.rename_lateDelay (g : TransportErr → TransportErr) (i : Inputs) :
    (i.rename g).lateDelay = i.lateDelay := rfl

@[simp] theorem BusResponse.rename_id (r : BusResponse) : r.rename id = r := by cases r <;> rfl

@[simp] theorem Event.rename_id (e : Event) : e.rename id = e := by cases e <;> rfl

@[simp] theorem Inputs.rename_id (i : Inputs) : i.rename id = i := by
  have h : BusResponse.rename id = id := funext BusResponse.rename_id
  simp [Inputs.rename, h]

/-! ## Outcomes -/

theorem sameOutcome_cases {r : State → State → Prop} {x y : Result} (h : SameOutcome r x y) :
    (∃ u v, x = .next u ∧ y = .next v ∧ r u v) ∨ (∃ f, x = .fault f ∧ y = .fault f) ∨
    ∃ f, x = .refused f ∧ y = .refused f := by
  cases x with
  | next u => cases y with
    | next v => exact .inl ⟨u, v, rfl, rfl, h⟩
    | fault _ | refused _ => exact h.elim
  | fault f => cases y with
    | fault _ => exact .inr (.inl ⟨f, rfl, congrArg _ h.symm⟩)
    | next _ | refused _ => exact h.elim
  | refused f => cases y with
    | refused _ => exact .inr (.inr ⟨f, rfl, congrArg _ h.symm⟩)
    | next _ | fault _ => exact h.elim

theorem SameOutcome.andThen {r : State → State → Prop} {x y : Result} {k l : State → Result}
    (h : SameOutcome r x y) (hk : ∀ u v, r u v → SameOutcome r (k u) (l v)) :
    SameOutcome r (andThen x k) (andThen y l) := by
  rcases sameOutcome_cases h with ⟨u, v, rfl, rfl, huv⟩ | ⟨f, rfl, rfl⟩ | ⟨f, rfl, rfl⟩
  · exact hk u v huv
  · rfl
  · rfl

/-! ## Congruence of the step -/

/-- What the choice and the course of an instruction depend on, outside CONVERT, DONE and FAILED:
the same in both states, but for the names `g` gives to errors. -/
structure SamePorts (g : TransportErr → TransportErr) (s t : State) : Prop where
  seq : s.seq = t.seq
  addr : s.addr = t.addr
  owedBus : s.owedBus = t.owedBus
  owedDelay : s.owedDelay = t.owedDelay
  now : t.now = s.now.rename g

/-- A relation between states that fixes the ports and that the updates of the meanings keep: `goto`
where no register is read next, and a frame where CONVERT reads it. With CONVERT and the two
responses, which read registers, the step keeps it too (`StepCongruence.sameOutcome_step`). -/
structure StepCongruence (g : TransportErr → TransportErr) (r : State → State → Prop) : Prop where
  ports {s t : State} : r s t → SamePorts g s t
  emit {s t : State} (e : Event) : r s t → r (s.emit e) (t.emit (e.rename g))
  emitLog {s t : State} : r s t → r s.emitLog t.emitLog
  goto {s t : State} {c : BitVec 4} : c.toNat < 0x8 → r s t → r (s.goto c) (t.goto c)
  raise {s t : State} (e : TransportErr) :
    r s t → r (s.raiseTransportError e) (t.raiseTransportError (g e))
  receive {s t : State} (f : Frame) :
    r s t → r ((s.setFrame f).goto seqConvert) ((t.setFrame f).goto seqConvert)
  returnToIdle {s t : State} : r s t → r s.returnToIdle t.returnToIdle
  resetTo {s t : State} (a : Addr) : r s t → r (s.resetTo a) (t.resetTo a)
  advance {s t : State} (i : Inputs) : r s t → r (s.advance i) (t.advance (i.rename g))

section
variable {g : TransportErr → TransportErr} {s t : State}

theorem SamePorts.awaitsBus (h : SamePorts g s t) : t.awaitsBus = s.awaitsBus := by
  simp [State.awaitsBus, State.outstanding, h.seq, h.addr]

theorem SamePorts.awaitsDelay (h : SamePorts g s t) : t.awaitsDelay = s.awaitsDelay := by
  simp [State.awaitsDelay, State.outstanding, h.seq, h.addr]

theorem SamePorts.abandonedBus (h : SamePorts g s t) : t.abandonedBus = s.abandonedBus := by
  simp [State.abandonedBus, h.awaitsBus, h.now]

theorem SamePorts.abandonedDelay (h : SamePorts g s t) : t.abandonedDelay = s.abandonedDelay := by
  simp [State.abandonedDelay, h.awaitsDelay, h.now]

theorem SamePorts.breach (h : SamePorts g s t) : t.breach = s.breach := by
  simp [State.breach, h.awaitsBus, h.awaitsDelay, h.owedBus, h.owedDelay, h.now]

theorem SamePorts.fetch (h : SamePorts g s t) : t.fetch = s.fetch := by
  simp [State.fetch, h.seq, h.breach, h.now]

variable {r : State → State → Prop} (hr : StepCongruence g r) (h : r s t)
include hr h

/-- A response is received alike if its bytes are. -/
theorem StepCongruence.onBusResponse {k l : List Byte → State → Result}
    (hk : ∀ bs, SameOutcome r (k bs (s.emit (.busOk bs))) (l bs (t.emit (.busOk bs)))) :
    SameOutcome r (onBusResponse k s) (onBusResponse l t) := by
  have hb : t.now.bus = s.now.bus.map (BusResponse.rename g) := by rw [(hr.ports h).now]; rfl
  match hs : s.now.bus with
  | none => rw [onBusResponse_none hs, onBusResponse_none (by simp [hb, hs])]; exact h
  | some (.fail e) =>
    rw [onBusResponse_fail hs, onBusResponse_fail (e := g e) (by simp [hb, hs, BusResponse.rename])]
    exact hr.raise e (hr.emit (.busFail e) h)
  | some (.ok bs) =>
    rw [onBusResponse_ok hs, onBusResponse_ok (bs := bs) (by simp [hb, hs, BusResponse.rename])]
    exact hk bs

/-- A write goes on alike if the request that follows it is the same. -/
theorem StepCongruence.onWriteResponse {k : State → State}
    (hk : ∀ {u v}, r u v → r (k u) (k v)) :
    SameOutcome r (onWriteResponse k s) (onWriteResponse k t) := by
  refine hr.onBusResponse h fun bs => ?_
  match bs with
  | [] => exact hk (hr.emit (.busOk []) h)
  | _ :: _ => rfl

/-- The same move to a SEQ that waits on a request, which is issued at ADDR. -/
theorem StepCongruence.goto_issueBus {c : BitVec 4} (hc : c.toNat < 0x8) (q : Addr → BusRequest) :
    r ((s.goto c).issueBus (q s.addr)) ((t.goto c).issueBus (q t.addr)) := by
  rw [(hr.ports h).addr]
  exact hr.emit (.bus _) (hr.goto hc h)

theorem StepCongruence.acceptRead : r s.acceptRead t.acceptRead :=
  hr.goto_issueBus (hr.emit .read h) (by decide) rdStatusRequest

theorem StepCongruence.afterStatus (b : Byte) : r (afterStatus b s) (afterStatus b t) := by
  unfold Machine.afterStatus
  split
  · exact hr.goto_issueBus h (by decide) wrTrigRequest
  · exact hr.goto_issueBus (hr.emitLog h) (by decide) wrCal1BRequest

theorem StepCongruence.respond {x y : HostResponse} (hxy : y.event = x.event.rename g) :
    SameOutcome r (respond x s) (respond y t) := by
  have ha : t.now.accept = s.now.accept := by rw [(hr.ports h).now]; rfl
  cases hs : s.now.accept with
  | false => rw [respond_held hs, respond_held (ha.trans hs)]; exact h
  | true =>
    rw [respond_accepted hs, respond_accepted (ha.trans hs), hxy]
    exact hr.returnToIdle (hr.emit _ h)

theorem StepCongruence.execIdle : SameOutcome r (execIdle s) (execIdle t) := by
  have hn : t.now.read = s.now.read := by rw [(hr.ports h).now]; rfl
  unfold Machine.execIdle
  rw [hn]
  split
  · exact hr.acceptRead h
  · exact h

theorem StepCongruence.execCheckCal : SameOutcome r (execCheckCal s) (execCheckCal t) := by
  refine hr.onBusResponse h fun bs => ?_
  match bs with
  | [] | _ :: _ :: _ => rfl
  | [b] => exact hr.afterStatus (hr.emit (.busOk [b]) h) b

theorem StepCongruence.execWait : SameOutcome r (execWait s) (execWait t) := by
  have hn : t.now.delay = s.now.delay := by rw [(hr.ports h).now]; rfl
  unfold Machine.execWait
  rw [hn]
  split
  · exact hr.goto_issueBus (hr.emit .delayDone h) (by decide) rdFrameRequest
  · exact h

theorem StepCongruence.execReadData : SameOutcome r (execReadData s) (execReadData t) := by
  refine hr.onBusResponse h fun bs => ?_
  match Frame.ofBytes bs with
  | none => rfl
  | some f => exact hr.receive f (hr.emit (.busOk bs) h)

/-- A step keeps a congruence, if CONVERT and the responses of DONE and FAILED do. -/
theorem StepCongruence.sameOutcome_step
    (hconvert : s.seq = 0x8 → SameOutcome r (execConvert s) (execConvert t))
    (hdone : s.seq = 0x9 → s.temp.get = t.temp.get ∧ s.hum.get = t.hum.get)
    (hfailed : s.seq = 0xA → t.errorResponse.event = s.errorResponse.event.rename g) :
    SameOutcome r (step s) (step t) := by
  unfold step
  rw [(hr.ports h).fetch, (hr.ports h).now]
  match hf : s.fetch with
  | .fault f | .refused f => rfl
  | .next i =>
    refine SameOutcome.andThen ?_ fun u v huv => hr.advance _ huv
    obtain ⟨-, ⟨a, -, rfl⟩ | ⟨-, -, hi⟩⟩ := fetch_eq_next hf
    · exact hr.resetTo a h
    rcases decodeSeq_eq_ok hi with ⟨hs, rfl⟩ | ⟨hs, rfl⟩ | ⟨hs, rfl⟩ | ⟨hs, rfl⟩ | ⟨hs, rfl⟩ |
      ⟨hs, rfl⟩ | ⟨hs, rfl⟩ | ⟨hs, rfl⟩ | ⟨hs, rfl⟩ | ⟨hs, rfl⟩ | ⟨hs, rfl⟩
    · exact hr.execIdle h
    · exact hr.execCheckCal h
    · exact hr.onWriteResponse h fun hw => hr.goto_issueBus hw (by decide) wrCal1CRequest
    · exact hr.onWriteResponse h fun hw => hr.goto_issueBus hw (by decide) wrCal1ERequest
    · exact hr.onWriteResponse h fun hw => hr.goto_issueBus hw (by decide) wrTrigRequest
    · exact hr.onWriteResponse h fun hw => hr.emit (.delay delayMs) (hr.goto (by decide) hw)
    · exact hr.execWait h
    · exact hr.execReadData h
    · exact hconvert hs
    · obtain ⟨htemp, hhum⟩ := hdone hs
      exact hr.respond h (by simp [HostResponse.event, Event.rename, htemp, hhum])
    · exact hr.respond h (hfailed hs)
end

/-! ## What an earlier READ left -/

/-- Away from CONVERT, DONE and FAILED no register counts. -/
theorem SameWhereRead.goto {s t : State} {c : BitVec 4} (hc : c.toNat < 0x8)
    (h : SameWhereRead s t) : SameWhereRead (s.goto c) (t.goto c) :=
  { h with
    seq := rfl
    frame := fun he => by cases he; simp at hc
    reading := fun he => by cases he; simp at hc
    error := fun he => by cases he; simp at hc }

theorem SameWhereRead.now {s t : State} (h : SameWhereRead s t) : t.now = s.now := by
  simp [State.now, h.env]

theorem SameWhereRead.ports {s t : State} (h : SameWhereRead s t) : SamePorts id s t :=
  ⟨h.seq, h.addr, h.owedBus, h.owedDelay, by simp [h.now]⟩

theorem sameWhereRead_congruence : StepCongruence id SameWhereRead where
  ports := SameWhereRead.ports
  emit e h := { h with trace := by simp [h.trace] }
  emitLog h := { h with logOut := by simp [h.logOut] }
  goto := SameWhereRead.goto
  raise e h := { h with
    seq := rfl, frame := nofun, reading := nofun, error := fun _ => ⟨rfl, rfl⟩ }
  receive f h := { h with
    seq := rfl, frame := fun _ => rfl, reading := nofun, error := nofun }
  returnToIdle h := { h with
    seq := rfl, frame := nofun, reading := nofun, error := nofun }
  resetTo a h := { h with
    seq := rfl, addr := rfl, frame := nofun, reading := nofun, error := nofun
    owedBus := by simp [h.owedBus, h.ports.abandonedBus]
    owedDelay := by simp [h.owedDelay, h.ports.abandonedDelay]
    trace := by simp [h.trace] }
  advance i h := { h with
    env := by simp [h.env]
    owedBus := by simp [h.owedBus]
    owedDelay := by simp [h.owedDelay] }

/-- CONVERT gives both results from FRAME, so that they agree if FRAME does. -/
theorem SameWhereRead.execConvert {s t : State} (h : SameWhereRead s t) (hs : s.seq = 0x8) :
    SameOutcome SameWhereRead (execConvert s) (execConvert t) :=
  { h with
    seq := rfl, frame := nofun, error := nofun
    reading := fun _ => by simp [h.frame hs, h.fmt] }

/-- Settles O44: the relation is a congruence whose registers agree where they are read. -/
theorem nothingOfOneReadReachesTheNext : Obligations.NothingOfOneReadReachesTheNext := by
  intro s t h
  refine sameWhereRead_congruence.sameOutcome_step h h.execConvert ?_ ?_
  · intro hs
    simp [h.reading hs]
  · intro hs
    simp [State.errorResponse, h.error hs]

/-! ## Unwritten registers -/

@[simp] theorem Reg.SameIfWritten.refl {α : Type} (a : Reg α) : a.SameIfWritten a := .inl rfl

/-- A register that a transition wrote is the same. -/
theorem Reg.SameIfWritten.eq_of_holds {α : Type} {a b : Reg α} {v : α} (h : a.SameIfWritten b)
    (ha : a = .holds v) : b = .holds v := by
  subst ha
  rcases h with h | ⟨⟨w, hw⟩, -⟩
  · exact h.symm
  · cases hw

theorem SameIfWritten.now {s t : State} (h : SameIfWritten s t) : t.now = s.now := by
  simp [State.now, h.env]

theorem SameIfWritten.ports {s t : State} (h : SameIfWritten s t) : SamePorts id s t :=
  ⟨h.seq, h.addr, h.owedBus, h.owedDelay, by simp [h.now]⟩

theorem sameIfWritten_congruence : StepCongruence id SameIfWritten where
  ports := SameIfWritten.ports
  emit e h := { h with trace := by simp [h.trace] }
  emitLog h := { h with logOut := by simp [h.logOut] }
  goto _ h := { h with seq := rfl }
  raise e h := { h with seq := rfl, errKind := .refl _, errVal := .refl _ }
  receive f h := { h with seq := rfl, frame := .refl _ }
  returnToIdle h := { h with
    seq := rfl, frame := .refl _, errKind := .refl _, errVal := .refl _
    hum := by simp [h.fmt]
    temp := by simp [h.fmt] }
  resetTo a h := { h with
    seq := rfl, addr := rfl, frame := .refl _, errKind := .refl _, errVal := .refl _
    codes := ⟨rfl, rfl⟩
    hum := by simp [h.fmt]
    temp := by simp [h.fmt]
    owedBus := by simp [h.owedBus, h.ports.abandonedBus]
    owedDelay := by simp [h.owedDelay, h.ports.abandonedDelay]
    trace := by simp [h.trace] }
  advance i h := { h with
    env := by simp [h.env]
    owedBus := by simp [h.owedBus]
    owedDelay := by simp [h.owedDelay] }

/-- CONVERT of a frame that was delivered. -/
theorem SameIfWritten.execConvert {s t : State} {f : Frame} (h : SameIfWritten s t)
    (hf : s.frame = .holds f) : SameOutcome SameIfWritten (execConvert s) (execConvert t) :=
  have ht := h.frame.eq_of_holds hf
  { h with
    seq := rfl, codes := ⟨rfl, rfl⟩
    hum := by simp [hf, ht, h.fmt]
    temp := by simp [hf, ht, h.fmt] }

/-- Settles O54: under the invariant every register that is read was written. -/
theorem unwrittenValuesReachNothing : Obligations.UnwrittenValuesReachNothing := by
  intro s t hinv h
  refine sameIfWritten_congruence.sameOutcome_step h ?_ ?_ ?_
  · intro hs
    obtain ⟨f, hf⟩ := hinv.frameReady hs
    exact h.execConvert hf
  · intro hs
    obtain ⟨f, -, hhum, htemp⟩ := hinv.readingReady hs
    simp [hhum, htemp, h.hum.eq_of_holds hhum, h.temp.eq_of_holds htemp]
  · intro hs
    obtain ⟨hkind, e, hval⟩ := hinv.errorReady hs
    simp [State.errorResponse, hkind, hval, h.errKind.eq_of_holds hkind, h.errVal.eq_of_holds hval]

/-! ## Renamed errors -/

theorem State.rename_now (g : TransportErr → TransportErr) (s : State) :
    (s.rename g).now = s.now.rename g := by
  unfold State.now State.rename
  cases s.env <;> rfl

theorem State.rename_ports (g : TransportErr → TransportErr) (s : State) :
    SamePorts g s (s.rename g) :=
  ⟨rfl, rfl, rfl, rfl, State.rename_now g s⟩

/-- Every update of the state goes along with renaming. -/
theorem rename_congruence (g : TransportErr → TransportErr) :
    StepCongruence g (fun s t => t = s.rename g) where
  ports {s t} h := h ▸ State.rename_ports g s
  emit e h := by subst h; simp [State.emit, State.rename]
  emitLog h := by subst h; rfl
  goto _ h := by subst h; rfl
  raise e h := by subst h; rfl
  receive f h := by subst h; rfl
  returnToIdle h := by subst h; rfl
  resetTo {s t} a h := by
    subst h
    have hports := State.rename_ports g s
    simp only [State.resetTo, hports.abandonedBus, hports.abandonedDelay]
    simp only [State.rename, List.map_append]
    rfl
  advance i h := by
    subst h
    simp only [State.advance, State.rename, List.map_tail, Inputs.rename_lateBus, Option.isSome_map]
    rfl

theorem renameOutcome_of_sameOutcome {g : TransportErr → TransportErr} {x y : Result}
    (h : SameOutcome (fun s t => t = s.rename g) x y) : y = renameOutcome g x := by
  rcases sameOutcome_cases h with ⟨s, t, rfl, rfl, rfl⟩ | ⟨f, rfl, rfl⟩ | ⟨f, rfl, rfl⟩ <;> rfl

/-- Settles O45: renaming is a congruence, and under the invariant the error presented in FAILED is
one that the transport gave. -/
theorem errorValuesAreNeverInspected : Obligations.ErrorValuesAreNeverInspected := by
  intro g s hinv
  refine renameOutcome_of_sameOutcome ((rename_congruence g).sameOutcome_step rfl ?_ ?_ ?_)
  · intro _; rfl
  · intro _; exact ⟨rfl, rfl⟩
  · intro hs
    obtain ⟨hkind, e, hval⟩ := hinv.errorReady hs
    simp [State.errorResponse, State.rename, hkind, hval, Reg.map, HostResponse.event, Event.rename,
      errTransport]

end Sys2Proof.Machine
end

section
namespace Sys2Proof

/-! ## Byte strings and the numbers they stand for -/

@[simp] theorem length_bytesOfNumber (n w : Nat) : (bytesOfNumber n w).length = n := by
  induction n generalizing w with
  | zero => rfl
  | succ n ih => simp [bytesOfNumber, ih]

/-- The bytes of a number are those of the number they stand for. -/
theorem bytesOfNumber_numberOfBytes (bs : List Byte) :
    bytesOfNumber bs.length (numberOfBytes bs) = bs := by
  induction bs with
  | nil => rfl
  | cons b bs ih =>
    have hlow : BitVec.ofNat 8 (b.toNat + 256 * numberOfBytes bs) = b := by
      simp [BitVec.ofNat_add, BitVec.ofNat_mul]
    have hrest : (b.toNat + 256 * numberOfBytes bs) / 256 = numberOfBytes bs := by
      have := b.isLt; omega
    simp only [List.length_cons, numberOfBytes, bytesOfNumber, hlow, hrest, ih]

/-- `n` bytes hold every number below `256 ^ n`. -/
theorem numberOfBytes_bytesOfNumber {n w : Nat} (h : w < 256 ^ n) :
    numberOfBytes (bytesOfNumber n w) = w := by
  induction n generalizing w with
  | zero => simp [bytesOfNumber, numberOfBytes]; omega
  | succ n ih =>
    have hrest : w / 256 < 256 ^ n := Nat.div_lt_of_lt_mul (by rwa [← Nat.pow_succ'])
    rw [bytesOfNumber, numberOfBytes, ih hrest, BitVec.toNat_ofNat]
    omega

/-- `bs` are the `n` bytes of `w` exactly if there are `n` of them and they stand for `w`. -/
theorem bytesOfNumber_eq_iff {n w : Nat} (h : w < 256 ^ n) (bs : List Byte) :
    bytesOfNumber n w = bs ↔ bs.length = n ∧ numberOfBytes bs = w := by
  constructor
  · rintro rfl
    exact ⟨length_bytesOfNumber n w, numberOfBytes_bytesOfNumber h⟩
  · rintro ⟨rfl, rfl⟩
    exact bytesOfNumber_numberOfBytes bs

/-! ## Encodings fit their space -/

theorem encodeWord_lt_width (i : Instr) : encodeWord i < 2 ^ i.format.width :=
  match i with
  | .read => Laws.EncodeWidth.read
  | .reset a => Laws.EncodeWidth.reset a
  | .idle => Laws.EncodeWidth.idle
  | .checkCal => Laws.EncodeWidth.checkCal
  | .cal1B => Laws.EncodeWidth.cal1B
  | .cal1C => Laws.EncodeWidth.cal1C
  | .cal1E => Laws.EncodeWidth.cal1E
  | .trigger => Laws.EncodeWidth.trigger
  | .wait => Laws.EncodeWidth.wait
  | .readData => Laws.EncodeWidth.readData
  | .convert => Laws.EncodeWidth.convert
  | .done => Laws.EncodeWidth.done
  | .failed => Laws.EncodeWidth.failed
  | .rdStatus a => Laws.EncodeWidth.rdStatus a
  | .rdFrame a => Laws.EncodeWidth.rdFrame a
  | .wrCal1B a => Laws.EncodeWidth.wrCal1B a
  | .wrCal1C a => Laws.EncodeWidth.wrCal1C a
  | .wrCal1E a => Laws.EncodeWidth.wrCal1E a
  | .wrTrig a => Laws.EncodeWidth.wrTrig a
  | .dly80 => Laws.EncodeWidth.dly80
  | .logCal => Laws.EncodeWidth.logCal
  | .extractH => Laws.EncodeWidth.extractH
  | .extractT => Laws.EncodeWidth.extractT
  | .convH => Laws.EncodeWidth.convH
  | .convT => Laws.EncodeWidth.convT

theorem encodeWord_lt_bytes (i : Instr) : encodeWord i < 256 ^ i.format.bytes := by
  refine (encodeWord_lt_width i).trans_le ?_
  cases i.format <;> decide

theorem encode_eq_iff (i : Instr) (bs : List Byte) :
    encode i = bs ↔ bs.length = i.format.bytes ∧ numberOfBytes bs = encodeWord i :=
  bytesOfNumber_eq_iff (encodeWord_lt_bytes i) bs

/-! ## The fields of the bus words (R42, R44) -/

theorem headerWord_fields (a : Addr) {dir len : Nat} (hd : dir < 2) (hl : len < 16) :
    field (headerWord dir a len) 11 1 = dir ∧
    BitVec.ofNat 7 (field (headerWord dir a len) 4 7) = a ∧
    field (headerWord dir a len) 0 4 = len := by
  have ha := a.isLt
  have haddr : field (headerWord dir a len) 4 7 = a.toNat := by
    simp only [field, headerWord]; omega
  refine ⟨?_, by rw [haddr]; simp, ?_⟩ <;> simp only [field, headerWord] <;> omega

theorem commandWord_fields (a : Addr) {c p q : Nat} (hc : c < 256) (hp : p < 256) (hq : q < 256) :
    field (commandWord a c p q) 35 1 = 0 ∧ field (commandWord a c p q) 24 4 = 3 ∧
    BitVec.ofNat 7 (field (commandWord a c p q) 28 7) = a ∧
    field (commandWord a c p q) 0 24 = c * 2 ^ 16 + p * 2 ^ 8 + q := by
  have ha := a.isLt
  have haddr : field (commandWord a c p q) 28 7 = a.toNat := by
    simp only [field, commandWord, headerWord]; omega
  refine ⟨?_, ?_, by rw [haddr]; simp, ?_⟩ <;>
    simp only [field, commandWord, headerWord] <;> omega

/-- A header with the direction bit set is the read that its fields name. -/
theorem headerWord_of_fields {w len : Nat} (hw : w < 2 ^ 12) (hdir : field w 11 1 = 1)
    (hlen : field w 0 4 = len) : headerWord 1 (BitVec.ofNat 7 (field w 4 7)) len = w := by
  simp only [field, headerWord, BitVec.toNat_ofNat] at *
  omega

/-- A word with a write's header is the command that its payload names. -/
theorem commandWord_of_fields {w c p q : Nat} (hw : w < 2 ^ 36)
    (hhead : field w 35 1 = 0 ∧ field w 24 4 = 3)
    (hdata : field w 0 24 = c * 2 ^ 16 + p * 2 ^ 8 + q) :
    commandWord (BitVec.ofNat 7 (field w 28 7)) c p q = w := by
  simp only [field, commandWord, headerWord, BitVec.toNat_ofNat] at *
  omega

/-! ## The decoder accepts exactly the encodings -/

/-- On a read header the decoder takes the address and looks at the length only. -/
theorem decodeBusRead_headerWord (a : Addr) {len : Nat} (hl : len < 16) :
    decodeBusRead (headerWord 1 a len) =
      if len = 1 then .ok (.rdStatus a)
      else if len = 8 then .ok (.rdFrame a)
      else .error .neverEmitted := by
  obtain ⟨hdir, haddr, hlen⟩ := headerWord_fields a (dir := 1) (by decide) hl
  rw [decodeBusRead, if_pos hdir, haddr, hlen]
  interval_cases len <;> rfl

/-- On a command write the decoder takes the address and looks at the payload only. -/
theorem decodeBusWrite_commandWord (a : Addr) {c p q : Nat} (hc : c < 256) (hp : p < 256)
    (hq : q < 256) :
    decodeBusWrite (commandWord a c p q) =
      let data := c * 2 ^ 16 + p * 2 ^ 8 + q
      if data = 0x1B0000 then .ok (.wrCal1B a)
      else if data = 0x1C0000 then .ok (.wrCal1C a)
      else if data = 0x1E0000 then .ok (.wrCal1E a)
      else if data = 0xAC3300 then .ok (.wrTrig a)
      else .error .neverEmitted := by
  obtain ⟨hdir, hlen, haddr, hdata⟩ := commandWord_fields a hc hp hq
  simp only [decodeBusWrite, hdir, hlen, haddr, hdata, and_self, if_true]

theorem decodeWord_encodeWord (i : Instr) : decodeWord i.format (encodeWord i) = .ok i := by
  unfold decodeWord
  rw [if_pos (encodeWord_lt_width i)]
  cases i with
  | reset a => simp [Instr.format, encodeWord]
  | rdStatus a | rdFrame a => exact decodeBusRead_headerWord a (by decide)
  | wrCal1B a | wrCal1C a | wrCal1E a | wrTrig a =>
    exact decodeBusWrite_commandWord a (by decide) (by decide) (by decide)
  | _ => decide

theorem decodeBusRead_eq_ok {w : Nat} {i : Instr} (hw : w < 2 ^ 12) (h : decodeBusRead w = .ok i) :
    i.format = .busRead ∧ encodeWord i = w := by
  unfold decodeBusRead at h
  split at h
  · rename_i hdir
    split at h <;> cases h <;> rename_i hlen <;> exact ⟨rfl, headerWord_of_fields hw hdir hlen⟩
  · cases h

theorem decodeBusWrite_eq_ok {w : Nat} {i : Instr} (hw : w < 2 ^ 36)
    (h : decodeBusWrite w = .ok i) : i.format = .busWrite ∧ encodeWord i = w := by
  unfold decodeBusWrite at h
  split at h
  · rename_i hhead
    dsimp only at h
    split_ifs at h with h1B h1C h1E hTrig <;> cases h
    · exact ⟨rfl, commandWord_of_fields hw hhead h1B⟩
    · exact ⟨rfl, commandWord_of_fields hw hhead h1C⟩
    · exact ⟨rfl, commandWord_of_fields hw hhead h1E⟩
    · exact ⟨rfl, commandWord_of_fields hw hhead hTrig⟩
  · cases h

theorem decodeSeq_eq_ok_encodeWord {w : Nat} {i : Instr} (h : decodeSeq w = .ok i) :
    i.format = .seqState ∧ encodeWord i = w := by
  unfold decodeSeq at h
  split at h <;> cases h <;> exact ⟨rfl, rfl⟩

theorem decodeSubop_eq_ok {w : Nat} {i : Instr} (hw : w < 2 ^ 6) (h : decodeSubop w = .ok i) :
    i.format = .convertSubop ∧ encodeWord i = w := by
  unfold decodeSubop at h
  split at h
  · rename_i hseq
    have hword : 0x8 * 4 + field w 0 2 = w := by simp only [field] at *; omega
    have hlt : field w 0 2 < 4 := Nat.mod_lt _ (by decide)
    generalize field w 0 2 = sub at *
    interval_cases sub <;> cases h <;> exact ⟨rfl, hword⟩
  · cases h

/-- In the space `f` the bits `w` stand for `i` exactly if they are its encoding there. -/
theorem decodeWord_eq_ok_iff (f : Format) (w : Nat) (i : Instr) :
    decodeWord f w = .ok i ↔ i.format = f ∧ encodeWord i = w := by
  constructor
  · intro h
    unfold decodeWord at h
    split at h
    · rename_i hw
      cases f with
      | hostRequest | delayRequest | logEvent =>
        dsimp only at h
        split at h <;> cases h
        rename_i hone
        exact ⟨rfl, hone.symm⟩
      | reset => cases h; exact ⟨rfl, Nat.mod_eq_of_lt hw⟩
      | seqState => exact decodeSeq_eq_ok_encodeWord h
      | busRead => exact decodeBusRead_eq_ok hw h
      | busWrite => exact decodeBusWrite_eq_ok hw h
      | convertSubop => exact decodeSubop_eq_ok hw h
    · cases h
  · rintro ⟨rfl, rfl⟩
    exact decodeWord_encodeWord i

theorem decode_eq_ok_iff (f : Format) (bs : List Byte) (i : Instr) :
    decode f bs = .ok i ↔ bs.length = f.bytes ∧ decodeWord f (numberOfBytes bs) = .ok i := by
  by_cases hlen : bs.length = f.bytes <;> simp [decode, hlen]

/-- Settles O3: decoder and encoder of the words, carried to byte strings by the numbering. -/
theorem decodeAcceptsExactlyTheEncodings : Obligations.DecodeAcceptsExactlyTheEncodings := by
  intro f bs i
  rw [decode_eq_ok_iff, decodeWord_eq_ok_iff, encode_eq_iff]
  constructor
  · rintro ⟨hlen, rfl, hword⟩; exact ⟨rfl, hlen, hword.symm⟩
  · rintro ⟨rfl, hlen, hword⟩; exact ⟨hlen, rfl, hword.symm⟩

/-! ## Words of the tables -/

/-- Settles O1: the twelve words run through the decoder. -/
theorem decodeReadsTheTablesWords : Obligations.DecodeReadsTheTablesWords := by
  unfold Obligations.DecodeReadsTheTablesWords
  decide

/-- Settles O2: the fifteen codes run through the decoder. -/
theorem seqCodesNameTheirMicroOperations : Obligations.SeqCodesNameTheirMicroOperations := by
  unfold Obligations.SeqCodesNameTheirMicroOperations
  decide

end Sys2Proof
end

section
namespace Sys2Proof.Machine

/-! ## Requests as words -/

/-- The header's three fields side by side are the number of R42. -/
theorem BusRequest.header_toNat (r : BusRequest) :
    r.header.toNat = headerWord r.dir.toNat r.addr r.len.toNat := by
  have ha := r.addr.isLt
  have hl := r.len.isLt
  simp only [BusRequest.header, BitVec.toNat_append, headerWord]
  rw [← Nat.shiftLeft_add_eq_or_of_lt ha, ← Nat.shiftLeft_add_eq_or_of_lt hl, Nat.shiftLeft_eq,
    Nat.shiftLeft_eq]
  ring

theorem readRequest_word (a : Addr) (n : BitVec 4) :
    (readRequest a n).word = headerWord 1 a n.toNat := BusRequest.header_toNat _

theorem commandRequest_word (a : Addr) (c p1 p2 : Byte) :
    (commandRequest a c p1 p2).word = commandWord a c.toNat p1.toNat p2.toNat := by
  have hheader : (commandRequest a c p1 p2).header.toNat = headerWord 0 a 3 :=
    BusRequest.header_toNat _
  rw [BusRequest.word, hheader]
  simp only [commandRequest, List.foldl_cons, List.foldl_nil, commandWord]
  omega

/-- Settles O4: each request is a read or a command of the table. -/
theorem portRequestsAreTheTablesEncodings : Obligations.PortRequestsAreTheTablesEncodings :=
  ⟨fun a => ⟨readRequest_word a 1, readRequest_word a 8, commandRequest_word a 0x1B 0x00 0x00,
    commandRequest_word a 0x1C 0x00 0x00, commandRequest_word a 0x1E 0x00 0x00,
    commandRequest_word a 0xAC 0x33 0x00⟩, rfl⟩

/-! ## SEQ and faults -/

theorem decodeSeq_reserved {n : Nat} (h : 0xB ≤ n) : decodeSeq n = .error .reservedSeq := by
  obtain ⟨k, rfl⟩ := Nat.exists_eq_add_of_le' h
  rfl

/-- A reserved code stops the machine whatever arrives (R52). -/
theorem step_of_reserved {s : State} (h : 0xB ≤ s.seq.toNat) : step s = .fault .badSeq := by
  simp [step, State.fetch, decodeSeq_reserved h]

/-- An instruction leaves SEQ as it is or writes one of the eleven codes (R18). -/
theorem Effect.seq_eq_or_legal {i : Instr} {s t : State} (h : Effect i s t) :
    t.seq = s.seq ∨ t.seq.toNat ≤ 0xA := by
  cases h with
  | proceed e c q hp => exact .inr (by simpa using hp.seq_lt.le.trans (by decide))
  | reset | recalibrate | fail | receive | convert | respond =>
    exact .inr (by simp [seqCal1B, seqFailed, seqConvert, seqDone, seqIdle])
  | stay | issue | logCal | extractH | extractT | convH | convT => exact .inl rfl

/-- Settles O6: by the codes that the effects write. -/
theorem reservedSeqCodesStopAndAreNeverWritten :
    Obligations.ReservedSeqCodesStopAndAreNeverWritten := by
  refine ⟨fun s => step_of_reserved, fun i s t hs h => ?_, (afterReset_inv _ _).seqLegal⟩
  rcases (exec_effect h).seq_eq_or_legal with hsame | hlegal
  · rwa [hsame]
  · exact hlegal

theorem fetch_ne_fault {s : State} (h : s.seq.toNat ≤ 0xA) (x : Fault) : s.fetch ≠ .fault x := by
  obtain ⟨i, hi⟩ := decodeSeq_legal h
  unfold State.fetch
  rw [hi]
  dsimp only
  split
  · exact nofun
  · split <;> exact nofun

theorem andThen_ne_fault {r : Result} {k : State → Result} {x : Fault} (hr : r ≠ .fault x)
    (hk : ∀ s, k s ≠ .fault x) : andThen r k ≠ .fault x := by
  cases r with
  | next s => exact hk s
  | fault f => exact hr
  | refused f => exact nofun

/-- Settles O41: neither the choice of the instruction nor its meaning faults. -/
theorem noStepFaultsUnderTheInvariant : Obligations.NoStepFaultsUnderTheInvariant := by
  intro s x hinv
  unfold step
  match hf : s.fetch with
  | .next i => exact andThen_ne_fault (noInstructionFaults i s x) fun t => nofun
  | .fault f => exact absurd hf (fetch_ne_fault hinv.seqLegal f)
  | .refused r => exact nofun

/-! ## Requests on the trace and the acceptance of READ -/

/-- Settles O36: every event of the new trace may stand on the ports. -/
theorem onlyTheTablesRequestsAreEmitted : Obligations.OnlyTheTablesRequestsAreEmitted := by
  intro i s t h
  obtain ⟨new, htrace, hnew⟩ := (exec_effect h).trace
  exact ⟨new, htrace, fun r hr => hnew _ hr, fun ms hms => hnew _ hms⟩

/-- Only READ itself and IDLE note that a READ is accepted. -/
theorem Effect.accepts_no_read {i : Instr} {s t : State} (h : Effect i s t) (hread : i ≠ .read)
    (hidle : i ≠ .idle) : ∃ new, t.trace = s.trace ++ new ∧ .read ∉ new := by
  cases h with
  | stay | convert | logCal | extractH | extractT | convH | convT => exact ⟨[], by simp⟩
  | reset a => exact ⟨[.reset a], by simp⟩
  | proceed e c q hp =>
    refine ⟨[e, q], by simp, ?_⟩
    cases hp <;> simp at hread hidle ⊢
  | recalibrate b => exact ⟨[.busOk [b], .bus (wrCal1BRequest s.addr)], by simp⟩
  | fail e => exact ⟨[.busFail e], by simp⟩
  | receive f => exact ⟨[.busOk f.bytes], by simp⟩
  | respond r => exact ⟨[r.event], by cases r <;> simp [HostResponse.event]⟩
  | issue q hq => exact ⟨[q], by cases hq <;> simp⟩

/-- Settles O37: by the cases of IDLE; every other step accepts nothing. -/
theorem readIsAcceptedInIdleOnly : Obligations.ReadIsAcceptedInIdleOnly := by
  intro s t h
  rcases step_cases h with ⟨a, ha, -, rfl⟩ | ⟨hreset, -, i, u, hi, hx, rfl⟩
  · exact ⟨[.reset a], by simp [ha]⟩
  by_cases hs : s.seq = 0x0
  · rw [hs] at hi
    cases hi
    rcases execIdle_eq_next hx with ⟨hread, rfl⟩ | ⟨hread, rfl⟩
    · exact ⟨[.read, .bus (rdStatusRequest s.addr)],
        by simp [State.acceptRead, hs, hread, hreset]⟩
    · exact ⟨[], by simp [hread]⟩
  · have hidle : i ≠ .idle := by rintro rfl; exact hs (by simpa using decodeSeq_eq_ok hi)
    have hformat : i ≠ .read := by rintro rfl; cases decodeSeq_format hi
    obtain ⟨new, htrace, hnew⟩ := (exec_effect hx).accepts_no_read hformat hidle
    exact ⟨new, htrace, by simp [List.count_eq_zero_of_not_mem hnew],
      iff_of_false hnew fun hc => hs hc.1⟩

/-! ## Refusals -/

theorem wireTransaction_refused_iff (a : Addr) (q : BusRequest) (s : State) :
    wireTransaction a q s = .refused .foreignAddress ↔ (a == s.addr) = false := by
  rw [beq_eq_false_iff_ne]
  constructor
  · rintro h rfl
    rw [wireTransaction_own rfl] at h
    cases h
  · exact wireTransaction_foreign

/-- Settles O22: the six wire transactions test their address alone. -/
theorem transactionsAtAForeignAddressAreRefused :
    Obligations.TransactionsAtAForeignAddressAreRefused := by
  intro i s hwire
  cases i with
  | rdStatus a | rdFrame a | wrCal1B a | wrCal1C a | wrCal1E a | wrTrig a =>
    exact wireTransaction_refused_iff a _ s
  | _ => cases hwire

theorem Frame.ofBytes_eq_none {bs : List Byte} (h : bs.length ≠ 8) : Frame.ofBytes bs = none := by
  unfold Frame.ofBytes
  split
  · exact absurd rfl h
  · rfl

theorem onWriteResponse_refused {k : State → State} {s : State} {bs : List Byte}
    (h : s.now.bus = some (.ok bs)) (hbs : bs ≠ []) :
    onWriteResponse k s = .refused .responseLength := by
  rw [onWriteResponse, onBusResponse_ok h]
  cases bs with
  | nil => exact absurd rfl hbs
  | cons b bs => rfl

theorem execCheckCal_refused {s : State} {bs : List Byte} (h : s.now.bus = some (.ok bs))
    (hlen : bs.length ≠ 1) : execCheckCal s = .refused .responseLength := by
  rw [execCheckCal, onBusResponse_ok h]
  match bs with
  | [] | _ :: _ :: _ => rfl
  | [_] => exact absurd rfl hlen

theorem execReadData_refused {s : State} {bs : List Byte} (h : s.now.bus = some (.ok bs))
    (hlen : bs.length ≠ 8) : execReadData s = .refused .responseLength := by
  rw [execReadData, onBusResponse_ok h, Frame.ofBytes_eq_none hlen]

/-- Settles O23: each receiver tells the lengths apart. -/
theorem responsesOfAnotherLengthAreRefused : Obligations.ResponsesOfAnotherLengthAreRefused := by
  intro s bs h
  refine ⟨execCheckCal_refused h, execReadData_refused h, ?_⟩
  rintro i (rfl | rfl | rfl | rfl) hbs <;>
    simp only [exec_cal1B, exec_cal1C, exec_cal1E, exec_trigger, execCal1B, execCal1C, execCal1E,
      execTrigger, onWriteResponse_refused h hbs]

/-! ## The response of FAILED that is never raised -/

theorem errorResponse_readTooFast {s : State} (h : s.errKind.get = 1) :
    s.errorResponse = .readTooFast := by
  simp [State.errorResponse, h, errTransport]

/-- Settles O53: FAILED presents the response without a value and holds it until the accept. -/
theorem unraisedErrorKindIsPresentedWithoutAValue :
    Obligations.UnraisedErrorKindIsPresentedWithoutAValue := by
  intro s hkind
  have hresponse := errorResponse_readTooFast hkind
  refine ⟨fun hs => ⟨?_, rfl⟩, respond_held, fun ha => ⟨_, respond_accepted ha, ?_⟩⟩
  · simp [State.response, hs, hresponse]
  · simp [hresponse, HostResponse.event, seqIdle]

end Sys2Proof.Machine
end

section
namespace Sys2Proof.Machine

/-! ## The issuing half of the wire transactions -/

/-- At ADDR a wire transaction appends its request to the trace, with the whole next state written out. -/
theorem wireTransaction_addr (q : BusRequest) (s : State) :
    wireTransaction s.addr q s = .next { s with trace := s.trace ++ [.bus q] } :=
  wireTransaction_own rfl

/-- Settles O21: each of the six is `wireTransaction` at ADDR with the request of R61 and R64 to R68; the delay
request and the log event are one `emit` and one `emitLog`, with no test. -/
theorem transactionsIssueTheirOneRequest : Obligations.TransactionsIssueTheirOneRequest := by
  intro s
  exact ⟨wireTransaction_addr (rdStatusRequest s.addr) s,
    wireTransaction_addr (rdFrameRequest s.addr) s,
    wireTransaction_addr (wrCal1BRequest s.addr) s,
    wireTransaction_addr (wrCal1CRequest s.addr) s,
    wireTransaction_addr (wrCal1ERequest s.addr) s,
    wireTransaction_addr (wrTrigRequest s.addr) s,
    rfl, rfl⟩

end Sys2Proof.Machine
end

section
namespace Sys2Proof.Machine

/-! ## What the micro-operations do when their input arrives -/

theorem calOk_iff (b : Byte) : calOk b = true ↔ b &&& 0x18 = 0x18 := (calOkIsBitsThreeAndFour b).1

theorem calOk_eq_false_iff (b : Byte) : calOk b = false ↔ b &&& 0x18 ≠ 0x18 := by
  rw [← Bool.not_eq_true, calOk_iff]

/-- Noting `e`, moving SEQ and issuing `q`, with the whole next state written out. -/
theorem emit_goto_emit (e q : Event) (c : BitVec 4) (s : State) :
    ((s.emit e).goto c).emit q = { s with seq := c, trace := s.trace ++ [e, q] } := by
  simp [State.emit, State.goto]

theorem execIdle_read {s : State} (h : s.now.read = true) :
    execIdle s = .next { s with
      seq := seqCheckCal, trace := s.trace ++ [.read, .bus (rdStatusRequest s.addr)] } := by
  rw [execIdle, if_pos h, ← emit_goto_emit, State.acceptRead]
  rfl

theorem execWait_completed {s : State} (h : s.now.delay = true) :
    execWait s = .next { s with
      seq := seqReadData, trace := s.trace ++ [.delayDone, .bus (rdFrameRequest s.addr)] } := by
  rw [execWait, if_pos h, ← emit_goto_emit]
  rfl

theorem execReadData_frame {s : State} {f : Frame} (h : s.now.bus = some (.ok f.bytes)) :
    execReadData s = .next (((s.emit (.busOk f.bytes)).setFrame f).goto seqConvert) := by
  rw [execReadData, onBusResponse_ok h, Frame.ofBytes_bytes]

theorem execCheckCal_status {s : State} {b : Byte} (h : s.now.bus = some (.ok [b])) :
    execCheckCal s = .next (afterStatus b (s.emit (.busOk [b]))) := onBusResponse_ok h

theorem afterStatus_calibrated {b : Byte} (s : State) (h : calOk b = true) :
    afterStatus b s = (s.goto seqTrigger).emit (.bus (wrTrigRequest s.addr)) := if_pos h

theorem afterStatus_uncalibrated {b : Byte} (s : State) (h : calOk b = false) :
    afterStatus b s = (s.emitLog.goto seqCal1B).emit (.bus (wrCal1BRequest s.addr)) :=
  if_neg (by simp [h])

/-- A receiver is a bus response and what follows its success. -/
theorem exec_receiver {i : Instr} (hi : i ∈ receivers) :
    ∃ k, ∀ s, exec i s = onBusResponse k s := by
  simp only [receivers, List.mem_cons, List.not_mem_nil, or_false] at hi
  rcases hi with rfl | rfl | rfl | rfl | rfl | rfl <;>
    simp only [exec_checkCal, exec_cal1B, exec_cal1C, exec_cal1E, exec_trigger, exec_readData,
      execCheckCal, execCal1B, execCal1C, execCal1E, execTrigger, execReadData, onWriteResponse] <;>
    exact ⟨_, fun _ => rfl⟩

theorem exec_receiver_fail {i : Instr} {s : State} {e : TransportErr} (hi : i ∈ receivers)
    (h : s.now.bus = some (.fail e)) :
    exec i s = .next ((s.emit (.busFail e)).raiseTransportError e) := by
  obtain ⟨k, hk⟩ := exec_receiver hi
  rw [hk, onBusResponse_fail h]

theorem exec_receiver_none {i : Instr} {s : State} (hi : i ∈ receivers) (h : s.now.bus = none) :
    exec i s = .next s := by
  obtain ⟨k, hk⟩ := exec_receiver hi
  rw [hk, onBusResponse_none h]

/-- Settles O8: by the two branches after the status byte and the cases of a bus response. -/
theorem checkCalBranchesOnTheMask : Obligations.CheckCalBranchesOnTheMask := by
  intro s
  refine ⟨fun b hb hmask => ?_, fun b hb hmask => ?_, fun _ => exec_receiver_fail (by decide),
    exec_receiver_none (by decide)⟩
  · rw [exec_checkCal, execCheckCal_status hb, afterStatus_calibrated _ ((calOk_iff b).mpr hmask),
      emit_goto_emit]
    rfl
  · rw [exec_checkCal, execCheckCal_status hb,
      afterStatus_uncalibrated _ ((calOk_eq_false_iff b).mpr hmask)]
    exact congrArg Host.Outcome.next (emit_goto_emit _ _ _ s.emitLog)

/-- A write's success moves SEQ to `c` and issues the request `q`. -/
theorem onWriteResponse_proceeds {s : State} (c : BitVec 4) (q : Addr → Event)
    (h : s.now.bus = some (.ok [])) :
    onWriteResponse (fun t => (t.goto c).emit (q t.addr)) s =
      .next { s with seq := c, trace := s.trace ++ [.busOk [], q s.addr] } := by
  rw [onWriteResponse_ok h, ← emit_goto_emit, emit_addr]

/-- Settles O9: the three writes differ in the code and the request that follow. -/
theorem calibrationWritesFollowOneAnother : Obligations.CalibrationWritesFollowOneAnother := by
  intro s
  refine ⟨onWriteResponse_proceeds seqCal1C fun a => .bus (wrCal1CRequest a),
    onWriteResponse_proceeds seqCal1E fun a => .bus (wrCal1ERequest a),
    onWriteResponse_proceeds seqTrigger fun a => .bus (wrTrigRequest a), ?_⟩
  rintro i (rfl | rfl | rfl) <;>
    exact ⟨fun _ => exec_receiver_fail (by decide), exec_receiver_none (by decide)⟩

/-! ## The protocol on the wire -/

/-- SEQ names each micro-operation by one code (R51). -/
theorem decodeSeq_injective {c d : BitVec 4} {i : Instr} (hc : decodeSeq c.toNat = .ok i)
    (hd : decodeSeq d.toNat = .ok i) : c = d :=
  BitVec.eq_of_toNat_eq
    ((decodeSeq_eq_ok_encodeWord hc).2.symm.trans (decodeSeq_eq_ok_encodeWord hd).2)

/-- While a request is outstanding, the READ in progress has come as far as that request. -/
theorem inProgress_waiting {s : State} {c : BitVec 4} {l : List Event} (hs : s.seq = c)
    (hc : 0 < c.toNat ∧ c.toNat < 0x8) : s.InProgress l ↔ Underway s.addr c l := by
  subst hs
  unfold State.InProgress
  split
  case h_5 => rfl
  all_goals rename_i hs; rw [hs] at hc; exact absurd hc (by decide)

theorem inProgress_idle {s : State} {l : List Event} (hs : s.seq = 0x0) :
    s.InProgress l ↔ l = [] := by
  rw [State.InProgress, hs]; rfl

theorem inProgress_received {s : State} {l : List Event} (hs : s.seq = 0x8 ∨ s.seq = 0x9) :
    s.InProgress l ↔ ∃ f, s.frame = .holds f ∧ Delivered s.addr f l := by
  rcases hs with hs | hs <;> rw [State.InProgress, hs] <;> rfl

theorem inProgress_failed {s : State} {l : List Event} (hs : s.seq = 0xA) :
    s.InProgress l ↔ ∃ e, s.errVal = .holds e ∧ FailedWith s.addr e l := by
  rw [State.InProgress, hs]; rfl

theorem State.InProgress.underway {s : State} {i : Instr} {l : List Event} (hl : s.InProgress l)
    (hi : decodeSeq s.seq.toNat = .ok i) (c : BitVec 4) (hci : decodeSeq c.toNat = .ok i)
    (hc : 0 < c.toNat ∧ c.toNat < 0x8) : Underway s.addr c l :=
  (inProgress_waiting (decodeSeq_injective hi hci) hc).mp hl

/-- What a reset finds of a READ is a READ cut off somewhere (R111). -/
theorem State.InProgress.toPartial {s : State} {l : List Event} (h : s.InProgress l) :
    Partial s.addr l := by
  unfold State.InProgress at h
  split at h
  · exact .inl h
  · obtain ⟨f, -, hf⟩ := h; exact .inr (.inr (.inl ⟨f, hf⟩))
  · obtain ⟨f, -, hf⟩ := h; exact .inr (.inr (.inl ⟨f, hf⟩))
  · obtain ⟨e, -, he⟩ := h; exact .inr (.inr (.inr ⟨e, he⟩))
  · exact .inr (.inl ⟨_, h⟩)

/-- The READ in progress grows by the new events. -/
theorem State.Conforms.extend {s t : State} {new : List Event} (hs : s.Conforms)
    (htrace : t.trace = s.trace ++ new) (haddr : t.addr = s.addr) (hfmt : t.fmt = s.fmt)
    (hnew : ∀ l, s.InProgress l → t.InProgress (l ++ new)) : t.Conforms := by
  obtain ⟨h, l, hl, hh, hp⟩ := hs
  exact ⟨h, l ++ new, by rw [htrace, hl, List.append_assoc], by rwa [hfmt, haddr], hnew l hp⟩

/-- The new event ends the READ in progress, and the block is back in IDLE. -/
theorem State.Conforms.close {s t : State} {e : Event} (hs : s.Conforms)
    (htrace : t.trace = s.trace ++ [e]) (hseq : t.seq = 0x0)
    (hnew : ∀ h l, History s.fmt s.addr h → s.InProgress l → History t.fmt t.addr (h ++ l ++ [e])) :
    t.Conforms := by
  obtain ⟨h, l, hl, hh, hp⟩ := hs
  exact ⟨h ++ l ++ [e], [], by rw [htrace, hl, List.append_nil], hnew h l hh hp,
    (inProgress_idle hseq).mpr rfl⟩

/-- Nothing of the protocol lies in the inputs and in what is owed after a reset. -/
theorem State.Conforms.advance {s : State} (hs : s.Conforms) (i : Inputs) :
    (s.advance i).Conforms := hs

theorem State.Conforms.resetTo {s : State} (hs : s.Conforms) (a : Addr) : (s.resetTo a).Conforms :=
  hs.close rfl rfl fun _ _ hh hp => .reset a hh hp.toPartial

theorem Proceeds.seq_pos {s : State} {i : Instr} {e q : Event} {c : BitVec 4}
    (h : Proceeds s i e c q) : 0 < c.toNat := by cases h <;> decide

section
variable {s : State} {i : Instr} {l : List Event} (hi : decodeSeq s.seq.toNat = .ok i)
  (hl : s.InProgress l)
include hi hl

/-- Each move along the sequence writes the next two lines of the READ in progress (R81). -/
theorem Proceeds.underway {e q : Event} {c : BitVec 4} (h : Proceeds s i e c q) :
    Underway s.addr c (l ++ [e, q]) := by
  cases h with
  | read => cases decodeSeq_format hi
  | idle =>
    rw [inProgress_idle (decodeSeq_injective hi rfl)] at hl
    exact congrArg (· ++ _) hl
  | @calibrated b _ hb =>
    have hasked := hl.underway hi 0x1 rfl (by decide)
    exact ⟨l ++ [.busOk [b]], .inl ⟨b, (calOk_iff b).mp hb, congrArg (· ++ _) hasked⟩,
      List.append_cons l _ _⟩
  | cal1B =>
    obtain ⟨b, hb, hwrite⟩ := hl.underway hi 0x2 rfl (by decide)
    exact ⟨b, hb, congrArg (· ++ _) hwrite⟩
  | cal1C =>
    obtain ⟨b, hb, hwrite⟩ := hl.underway hi 0x3 rfl (by decide)
    exact ⟨b, hb, congrArg (· ++ _) hwrite⟩
  | cal1E =>
    obtain ⟨b, hb, hwrite⟩ := hl.underway hi 0x4 rfl (by decide)
    exact ⟨l ++ [.busOk []], .inr ⟨b, hb, congrArg (· ++ _) hwrite⟩, List.append_cons l _ _⟩
  | trigger =>
    obtain ⟨m, hm, rfl⟩ := hl.underway hi 0x5 rfl (by decide)
    exact ⟨m, hm, List.append_assoc m _ _⟩
  | wait =>
    obtain ⟨m, hm, rfl⟩ := hl.underway hi 0x6 rfl (by decide)
    exact ⟨m, hm, List.append_assoc m _ _⟩

/-- A receiver waits for the answer to a bus request. -/
theorem underway_of_receiver (hr : i ∈ receivers) : s.seq ≠ 0x6 ∧ Underway s.addr s.seq l := by
  have hseq : s.seq ≠ 0x6 ∧ 0 < s.seq.toNat ∧ s.seq.toNat < 0x8 := by
    rcases decodeSeq_eq_ok hi with h | h | h | h | h | h | h | h | h | h | h <;>
      obtain ⟨hs, rfl⟩ := h <;> simp [receivers, hs] at hr ⊢
  exact ⟨hseq.1, hl.underway hi _ hi hseq.2⟩
end

/-- The accepted Reading is that of the frame of this READ (R82). -/
theorem State.Conforms.acceptReading {s : State} (hs : s.Conforms) (hinv : s.Inv)
    (hseq : s.seq = 0x9) :
    (s.emit (HostResponse.ok s.temp.get s.hum.get).event).returnToIdle.Conforms := by
  refine hs.close rfl rfl fun h l hh hp => ?_
  obtain ⟨f, hf, hhum, htemp⟩ := hinv.readingReady hseq
  obtain ⟨g, hg, hdelivered⟩ := (inProgress_received (.inr hseq)).mp hp
  cases hf.symm.trans hg
  rw [hhum, htemp]
  exact .reading hh hdelivered

/-- The accepted error is the one this READ failed with (R97). -/
theorem State.Conforms.acceptError {s : State} (hs : s.Conforms) (hinv : s.Inv)
    (hseq : s.seq = 0xA) : (s.emit s.errorResponse.event).returnToIdle.Conforms := by
  refine hs.close rfl rfl fun h l hh hp => ?_
  obtain ⟨e, he, hfailed⟩ := (inProgress_failed hseq).mp hp
  have hresponse : s.errorResponse = .transport e := by
    simp [State.errorResponse, (hinv.errorReady hseq).1, he, errTransport]
  rw [hresponse]
  exact .error hh hfailed

/-- Every effect of the micro-operation that SEQ names keeps the protocol. -/
theorem Effect.conforms {i : Instr} {s t : State} (hinv : s.Inv) (hs : s.Conforms)
    (hi : decodeSeq s.seq.toNat = .ok i) (h : Effect i s t) : t.Conforms := by
  cases h with
  | stay => exact hs
  | reset a => exact hs.resetTo a
  | proceed e c q hp =>
    refine hs.extend (new := [e, q]) (by simp) rfl rfl fun l hl => ?_
    exact (inProgress_waiting rfl ⟨hp.seq_pos, hp.seq_lt⟩).mpr (hp.underway hi hl)
  | recalibrate b hc _ hb =>
    subst hc
    refine hs.extend (new := [.busOk [b], .bus (wrCal1BRequest s.addr)]) (by simp) rfl rfl
      fun l hl => (inProgress_waiting (c := seqCal1B) rfl (by decide)).mpr ?_
    have hasked := hl.underway hi 0x1 rfl (by decide)
    exact ⟨b, (calOk_eq_false_iff b).mp hb, congrArg (· ++ _) hasked⟩
  | fail e hr =>
    refine hs.extend (new := [.busFail e]) rfl rfl rfl fun l hl => ?_
    obtain ⟨hne, hunderway⟩ := underway_of_receiver hi hl hr
    exact (inProgress_failed rfl).mpr ⟨e, rfl, s.seq, l, hne, hunderway, rfl⟩
  | receive f hc =>
    subst hc
    refine hs.extend (new := [.busOk f.bytes]) rfl rfl rfl fun l hl => ?_
    have hasked := hl.underway hi 0x7 rfl (by decide)
    exact (inProgress_received (.inl rfl)).mpr ⟨f, rfl, l, hasked, rfl⟩
  | convert hc =>
    subst hc
    refine hs.extend (new := []) (by simp) rfl rfl fun l hl => ?_
    rw [List.append_nil]
    exact (inProgress_received (.inr rfl)).mpr
      ((inProgress_received (.inl (decodeSeq_convert hi))).mp hl)
  | respond r hr =>
    rcases hr with ⟨rfl, rfl⟩ | ⟨rfl, rfl⟩
    · exact hs.acceptReading hinv (decodeSeq_injective hi rfl)
    · exact hs.acceptError hinv (decodeSeq_injective hi rfl)
  | issue q hq => cases hq <;> cases decodeSeq_format hi
  | logCal hc | extractH hc | extractT hc | convH hc | convT hc =>
    subst hc; cases decodeSeq_format hi

/-- Settles O43: by the effects of the micro-operation that SEQ names. -/
theorem protocolIsKept : Obligations.ProtocolIsKept := by
  intro s t hinv hs h
  rcases step_cases h with ⟨a, -, -, rfl⟩ | ⟨-, -, i, u, hi, hx, rfl⟩
  · exact (hs.resetTo a).advance _
  · exact ((exec_effect hx).conforms hinv hs hi).advance _

/-! ## Runs -/

/-- The inputs `x` are some that the block may receive while SEQ is `c`, without a reset and without
late answers. -/
def Inputs.expectedAt (x : Inputs) (c : BitVec 4) : Bool :=
  x.reset.isNone && x.lateBus.isNone && !x.lateDelay &&
    (x.bus.isNone || [0x1, 0x2, 0x3, 0x4, 0x5, 0x7].contains c) && (!x.delay || c == 0x6)

/-- SEQ, the inputs to come, ADDR and FP_FORMAT: what the next steps of a run depend on between two
requests. -/
structure State.StandsAt (s : State) (c : BitVec 4) (ins : List Inputs) (a : Addr)
    (fmt : FpFormat) : Prop where
  seq : s.seq = c
  env : s.env = ins
  addr : s.addr = a
  fmt : s.fmt = fmt

/-- `n` steps lead from `s` to `t`; on the way `new` comes to the trace and `log` to the log sink. -/
structure Runs (n : Nat) (s t : State) (new : List Event) (log : List LogEvent) : Prop where
  run : core.run n s = .next t
  trace : t.trace = s.trace ++ new
  logOut : t.logOut = s.logOut ++ log

/-- A run goes on from where its first part ends. -/
theorem run_add {m n : Nat} {s t : State} (h : core.run m s = .next t) :
    core.run (m + n) s = core.run n t := by
  induction m generalizing s with
  | zero => cases h; rw [Nat.zero_add]
  | succ m ih =>
    rw [Nat.succ_add]
    simp only [Host.Core.run] at h ⊢
    cases hstep : core.step s with
    | next u => rw [hstep] at h; exact ih h
    | fault x | refused x => rw [hstep] at h; cases h

theorem Runs.trans {m n : Nat} {s t u : State} {new more : List Event} {log logs : List LogEvent}
    (h : Runs m s t new log) (h' : Runs n t u more logs) :
    Runs (m + n) s u (new ++ more) (log ++ logs) where
  run := (run_add h.run).trans h'.run
  trace := by rw [h'.trace, h.trace, List.append_assoc]
  logOut := by rw [h'.logOut, h.logOut, List.append_assoc]

section
variable {s : State} {c : BitVec 4} {x : Inputs} {rest : List Inputs} {a : Addr} {fmt : FpFormat}

theorem State.StandsAt.now (hs : s.StandsAt c (x :: rest) a fmt) : s.now = x := by
  rw [State.now, hs.env]

/-- On inputs the block may receive there, a step runs the micro-operation of SEQ. -/
theorem State.StandsAt.fetch {i : Instr} (hs : s.StandsAt c (x :: rest) a fmt)
    (hx : x.expectedAt c = true) (hi : decodeSeq c.toNat = .ok i) : s.fetch = .next i := by
  rw [← hs.seq] at hi
  simp only [← hs.now, ← hs.seq, Inputs.expectedAt, Bool.and_eq_true, Bool.or_eq_true,
    Bool.not_eq_true', Option.isNone_iff_eq_none, List.contains_iff_mem, beq_iff_eq,
    ← awaitsBus_iff, ← awaitsDelay_iff] at hx
  obtain ⟨⟨⟨⟨hreset, hlateBus⟩, hlateDelay⟩, hbus⟩, hdelay⟩ := hx
  have hbreach : s.breach = none := by
    rcases hbus with hbus | hbus <;> rcases hdelay with hdelay | hdelay <;>
      simp [State.breach, hlateBus, hlateDelay, hbus, hdelay]
  simp [State.fetch, hi, hreset, hbreach]

/-- One step runs the instruction of SEQ and uses up the inputs. -/
theorem runs_one {u : State} {d : BitVec 4} {i : Instr} {new : List Event} {log : List LogEvent}
    (hs : s.StandsAt c (x :: rest) a fmt) (hx : x.expectedAt c = true)
    (hi : decodeSeq c.toNat = .ok i) (hexec : exec i s = .next u)
    (hu : u.StandsAt d (x :: rest) a fmt) (htrace : u.trace = s.trace ++ new)
    (hlog : u.logOut = s.logOut ++ log) :
    (u.advance x).StandsAt d rest a fmt ∧ Runs 1 s (u.advance x) new log := by
  have hstep : core.step s = .next (u.advance x) := hs.now ▸ step_of_fetch (hs.fetch hx hi) hexec
  refine ⟨{ hu with env := by simp [hu.env] }, ?_, htrace, hlog⟩
  simp only [Host.Core.run, hstep]

/-- A step that moves SEQ and adds to the trace, and does nothing else. -/
theorem runs_move {i : Instr} {d : BitVec 4} {new : List Event}
    (hs : s.StandsAt c (x :: rest) a fmt) (hx : x.expectedAt c = true)
    (hi : decodeSeq c.toNat = .ok i)
    (hexec : exec i s = .next { s with seq := d, trace := s.trace ++ new }) :
    ∃ t, t.StandsAt d rest a fmt ∧ Runs 1 s t new [] :=
  ⟨_, runs_one hs hx hi hexec { hs with seq := rfl } rfl (by simp)⟩
end

section
variable {s : State} {rest : List Inputs} {a : Addr} {fmt : FpFormat}

theorem runs_accept (hs : s.StandsAt 0x0 ({ read := true } :: rest) a fmt) :
    ∃ t, t.StandsAt 0x1 rest a fmt ∧ Runs 1 s t [.read, .bus (rdStatusRequest a)] [] := by
  obtain rfl := hs.addr
  exact runs_move hs rfl rfl ((exec_idle s).trans (execIdle_read (by rw [hs.now])))

/-- A status byte that fails the mask (R69). -/
theorem runs_uncalibrated {b : Byte} (hb : b &&& 0x18 ≠ 0x18)
    (hs : s.StandsAt 0x1 ({ bus := some (.ok [b]) } :: rest) a fmt) :
    ∃ t, t.StandsAt 0x2 rest a fmt ∧ Runs 1 s t [.busOk [b], .bus (wrCal1BRequest a)] [.cal] := by
  obtain ⟨-, hbranch, -⟩ := checkCalBranchesOnTheMask s
  obtain rfl := hs.addr
  exact ⟨_, runs_one hs rfl rfl (hbranch b (by rw [hs.now]) hb) { hs with seq := rfl } rfl rfl⟩

/-- The answers to the three calibration writes (R70, R71, R72). -/
theorem runs_calibration
    (hs : s.StandsAt 0x2 ({ bus := some (.ok []) } :: { bus := some (.ok []) } ::
      { bus := some (.ok []) } :: rest) a fmt) :
    ∃ t, t.StandsAt 0x5 rest a fmt ∧ Runs 3 s t [.busOk [], .bus (wrCal1CRequest a), .busOk [],
      .bus (wrCal1ERequest a), .busOk [], .bus (wrTrigRequest a)] [] := by
  obtain ⟨t, ht, h1B⟩ := runs_move hs rfl rfl
    ((calibrationWritesFollowOneAnother s).1 (by rw [hs.now]))
  obtain ⟨u, hu, h1C⟩ := runs_move ht rfl rfl
    ((calibrationWritesFollowOneAnother t).2.1 (by rw [ht.now]))
  obtain ⟨v, hv, h1E⟩ := runs_move hu rfl rfl
    ((calibrationWritesFollowOneAnother u).2.2.1 (by rw [hu.now]))
  rw [hs.addr] at h1B
  rw [ht.addr] at h1C
  rw [hu.addr] at h1E
  exact ⟨v, hv, (h1B.trans h1C).trans h1E⟩

/-- The trigger write's answer and the completion of the delay (R77, R78). -/
theorem runs_trigger
    (hs : s.StandsAt 0x5 ({ bus := some (.ok []) } :: { delay := true } :: rest) a fmt) :
    ∃ t, t.StandsAt 0x7 rest a fmt ∧
      Runs 2 s t [.busOk [], .delay delayMs, .delayDone, .bus (rdFrameRequest a)] [] := by
  obtain ⟨t, ht, htrigger⟩ := runs_move hs rfl rfl
    (onWriteResponse_proceeds seqWait (fun _ => .delay delayMs) (by rw [hs.now]))
  obtain ⟨u, hu, hwait⟩ := runs_move ht rfl rfl
    ((exec_wait t).trans (execWait_completed (by rw [ht.now])))
  rw [ht.addr] at hwait
  exact ⟨u, hu, htrigger.trans hwait⟩

/-- The frame's arrival, its conversion and the acceptance of the Reading (R79, R85, R80). -/
theorem runs_reading {f : Frame}
    (hs : s.StandsAt 0x7 ({ bus := some (.ok f.bytes) } :: {} :: { accept := true } :: rest) a fmt) :
    ∃ t, t.StandsAt 0x0 rest a fmt ∧ Runs 3 s t
      [.busOk f.bytes, .respOk (tempOf fmt (rawTOf f)) (humOf fmt (rawHOf f))] [] := by
  obtain ⟨ht, hreceived⟩ := runs_one (log := []) hs rfl rfl
    ((exec_readData s).trans (execReadData_frame (by rw [hs.now]))) { hs with seq := rfl } rfl
    (by simp)
  obtain ⟨hu, hconverted⟩ := runs_one (new := []) (log := []) ht rfl rfl (exec_convert _)
    { ht with seq := rfl } (by simp) (by simp)
  obtain ⟨hv, haccepted⟩ := runs_one (log := [])
    (new := [.respOk (tempOf fmt (rawTOf f)) (humOf fmt (rawHOf f))]) hu rfl rfl
    ((exec_done _).trans (respond_accepted (by rw [hu.now]))) { hu with seq := rfl }
    (by simp [hs.fmt, HostResponse.event]) (by simp)
  exact ⟨_, hv, (hreceived.trans hconverted).trans haccepted⟩
end

/-- Settles O52: the parts of the READ one after another. -/
theorem uncalibratedReadCalibratesFirst : Obligations.UncalibratedReadCalibratesFirst := by
  intro s b f rest hseq hb henv
  have hs : s.StandsAt 0x0 _ s.addr s.fmt := ⟨hseq, henv, rfl, rfl⟩
  obtain ⟨t, ht, haccept⟩ := runs_accept hs
  obtain ⟨u, hu, hstatus⟩ := runs_uncalibrated hb ht
  obtain ⟨v, hv, hcalibration⟩ := runs_calibration hu
  obtain ⟨w, hw, htrigger⟩ := runs_trigger hv
  obtain ⟨z, hz, hreading⟩ := runs_reading hw
  have hrun := (((haccept.trans hstatus).trans hcalibration).trans htrigger).trans hreading
  exact ⟨z, hrun.run, hz.seq, hz.addr, hz.env, hrun.logOut, hrun.trace⟩

end Sys2Proof.Machine
end

section
namespace Sys2Proof.Machine

/-! ## The response -/

theorem respValid_iff (s : State) : s.respValid = true ↔ s.seq = 0x9 ∨ s.seq = 0xA :=
  (statusOutputsFollowSeq s).2

/-! Using up a step's inputs changes nothing of what the host sees. -/

@[simp] theorem advance_response (i : Inputs) (s : State) :
    (s.advance i).response = s.response := rfl
@[simp] theorem advance_respValid (i : Inputs) (s : State) :
    (s.advance i).respValid = s.respValid := rfl

/-- DONE and FAILED wait for the accept. -/
theorem exec_held {s : State} {i : Instr} (hi : decodeSeq s.seq.toNat = .ok i)
    (hvalid : s.respValid = true) (ha : s.now.accept = false) : exec i s = .next s := by
  rcases (respValid_iff s).mp hvalid with hs | hs <;> rw [hs] at hi <;> cases hi
  · exact respond_held ha
  · exact respond_held ha

/-- Settles O38: without a reset the step runs DONE or FAILED, which leaves the state as it is. -/
theorem responseIsHeldUntilAccepted : Obligations.ResponseIsHeldUntilAccepted := by
  intro s t h hvalid haccept hreset
  rcases step_cases h with ⟨a, ha, -⟩ | ⟨-, -, i, u, hi, hx, rfl⟩
  · rw [hreset] at ha
    cases ha
  · obtain rfl : s = u := by simpa [exec_held hi hvalid haccept] using hx
    simp [hvalid]

/-- An accepted response is on the trace, and the block is in IDLE; what is no register of the READ
stays. -/
theorem respond_accepted_frame {s : State} (r : HostResponse) (h : s.now.accept = true) :
    ∃ u, respond r s = .next u ∧ u.seq = 0x0 ∧ u.addr = s.addr ∧ u.fmt = s.fmt ∧ u.env = s.env ∧
      u.rawH = s.rawH ∧ u.rawT = s.rawT ∧ u.owedBus = s.owedBus ∧ u.owedDelay = s.owedDelay ∧
      u.logOut = s.logOut ∧ u.trace = s.trace ++ [r.event] :=
  ⟨_, respond_accepted h, by simp [seqIdle]⟩

theorem response_done {s : State} (h : s.seq = 0x9) :
    s.response = some (.ok s.temp.get s.hum.get) := by
  rw [State.response, h]; rfl

/-- Settles O18: by the two cases of `respond`. -/
theorem donePresentsTheReadingUntilAccepted : Obligations.DonePresentsTheReadingUntilAccepted := by
  rintro s t h rfl rfl
  exact ⟨fun hs => ⟨response_done hs, rfl⟩, respond_held, respond_accepted_frame _⟩

/-- After an accepted response the registers of the READ are unwritten. -/
theorem respond_accepted_registers {s u : State} {r : HostResponse} (h : s.now.accept = true)
    (hu : respond r s = .next u) :
    u.frame = unwrittenFrame ∧ u.hum = unwrittenHum s.fmt ∧ u.temp = unwrittenTemp s.fmt ∧
      u.errKind = unwrittenErrKind ∧ u.errVal = unwrittenErrVal := by
  rw [respond_accepted h] at hu
  cases hu
  simp

/-- Settles O20: DONE and FAILED return to IDLE alike. -/
theorem returnToIdleUnwritesTheRegisters : Obligations.ReturnToIdleUnwritesTheRegisters := by
  rintro i s u (rfl | rfl) ha h
  · exact respond_accepted_registers ha h
  · exact respond_accepted_registers ha h

/-! ## The measurement, one micro-operation at a time -/

theorem execIdle_held {s : State} (h : s.now.read = false) : execIdle s = .next s := by
  simp [execIdle, h]

theorem acceptRead_eq (s : State) :
    s.acceptRead = { s with
      seq := seqCheckCal, trace := s.trace ++ [.read, .bus (rdStatusRequest s.addr)] } :=
  emit_goto_emit .read (.bus (rdStatusRequest s.addr)) seqCheckCal s

theorem execRead_idle {s : State} (h : s.seq = 0x0) : execRead s = .next s.acceptRead :=
  if_pos (by simp [State.hostReady, seqIdle, h])

theorem execRead_elsewhere {s : State} (h : s.seq ≠ 0x0) : execRead s = .next s :=
  if_neg (by simpa [State.hostReady, seqIdle] using h)

/-- Settles O7: READ and IDLE each test their one condition. -/
theorem readIsAcceptedInIdleAndAsksForStatus :
    Obligations.ReadIsAcceptedInIdleAndAsksForStatus :=
  fun s => ⟨execIdle_read, execIdle_held, fun h => acceptRead_eq s ▸ execRead_idle h,
    execRead_elsewhere⟩

/-- Settles O10: by the cases of a bus response. -/
theorem triggerStartsTheDelay : Obligations.TriggerStartsTheDelay :=
  fun _ => ⟨onWriteResponse_proceeds seqWait fun _ => .delay delayMs,
    fun _ => exec_receiver_fail (by decide), exec_receiver_none (by decide)⟩

theorem execWait_held {s : State} (h : s.now.delay = false) : execWait s = .next s := by
  simp [execWait, h]

/-- Settles O11: WAIT tests the completion alone. -/
theorem delayCompletionIssuesTheDataRead : Obligations.DelayCompletionIssuesTheDataRead :=
  fun _ => ⟨execWait_completed, execWait_held⟩

/-- Settles O12: eight bytes are the bytes of a frame, and READ_DATA stores every frame. -/
theorem dataReadStoresTheFrameWhole : Obligations.DataReadStoresTheFrameWhole := by
  intro s
  refine ⟨fun b0 b1 b2 b3 b4 b5 b6 b7 h => ?_, fun _ => exec_receiver_fail (by decide),
    exec_receiver_none (by decide)⟩
  exact execReadData_frame (f := ⟨b0, b1, b2, b3, b4, b5, b6, b7⟩) h

/-! ## A READ of a calibrated sensor -/

/-- A status byte that meets the mask (R69). -/
theorem runs_calibrated {s : State} {rest : List Inputs} {a : Addr} {fmt : FpFormat} {b : Byte}
    (hb : b &&& 0x18 = 0x18) (hs : s.StandsAt 0x1 ({ bus := some (.ok [b]) } :: rest) a fmt) :
    ∃ t, t.StandsAt 0x5 rest a fmt ∧ Runs 1 s t [.busOk [b], .bus (wrTrigRequest a)] [] := by
  obtain ⟨hbranch, -⟩ := checkCalBranchesOnTheMask s
  obtain rfl := hs.addr
  exact runs_move hs rfl rfl (hbranch b (by rw [hs.now]) hb)

/-- Settles O51: the parts of the READ one after another, with no calibration between status and
trigger. -/
theorem calibratedReadDeliversItsReading : Obligations.CalibratedReadDeliversItsReading := by
  intro s b f rest hseq hb henv
  have hs : s.StandsAt 0x0 _ s.addr s.fmt := ⟨hseq, henv, rfl, rfl⟩
  obtain ⟨t, ht, haccept⟩ := runs_accept hs
  obtain ⟨u, hu, hstatus⟩ := runs_calibrated hb ht
  obtain ⟨v, hv, htrigger⟩ := runs_trigger hu
  obtain ⟨w, hw, hreading⟩ := runs_reading hv
  have hrun := ((haccept.trans hstatus).trans htrigger).trans hreading
  exact ⟨w, hrun.run, hw.seq, hw.addr, hw.env, by simpa using hrun.logOut, hrun.trace⟩

end Sys2Proof.Machine
end

section
namespace Sys2Proof

/-! ## Numbers and rounding

A finite number is followed by its sign and its exact magnitude. Rounding depends on the magnitude alone, and
gives it back where the format has it, so that an operation on finite numbers is its exact result, rounded. -/

/-- `v` is the finite number of sign `neg` and magnitude `x`. -/
def FpVal.Represents (v : FpVal) (neg : Bool) (x : ℚ) : Prop :=
  ∃ (m : Nat) (e : Int), v.unpack = .fin neg m e ∧ (m : ℚ) * 2 ^ e = x

/-- The sign of a finite number is the sign bit of its pattern. -/
theorem FpFormat.signOf_of_unpack_fin {f : FpFormat} {n m : Nat} {neg : Bool} {e : Int}
    (h : f.unpack n = .fin neg m e) : f.signOf n = neg := by
  unfold FpFormat.unpack at h
  dsimp only at h
  split at h
  · split at h <;> cases h
  · split at h <;> cases h <;> rfl

section
variable {v : FpVal} {neg : Bool} {x : ℚ}

theorem FpVal.Represents.value_eq (h : v.Represents neg x) :
    v.value = some (if neg then -x else x) := by
  obtain ⟨m, e, hv, rfl⟩ := h
  rw [FpVal.value, hv]
  cases neg <;> simp

theorem FpVal.Represents.value_eq_int {z : Int} (h : v.Represents (decide (z < 0)) (z.natAbs * x)) :
    v.value = some (z * x) := by
  rw [h.value_eq]
  by_cases hz : z < 0
  · simp [hz, abs_of_neg]
  · simp [hz, abs_of_nonneg, Int.not_lt.mp hz]

theorem FpVal.Represents.signOf_eq (h : v.Represents neg x) : v.format.signOf v.pattern = neg := by
  obtain ⟨m, e, hv, -⟩ := h
  exact FpFormat.signOf_of_unpack_fin hv

end

/-- Rounding depends on the exact value only. -/
theorem FpFormat.round_congr (f : FpFormat) (neg : Bool) {m n : Nat} {d e : Int}
    (h : (m : ℚ) * 2 ^ d = n * 2 ^ e) : f.round neg m d = f.round neg n e := by
  wlog hde : d ≤ e generalizing m n d e
  · exact (this h.symm (by omega)).symm
  obtain ⟨k, rfl⟩ : ∃ k : Nat, d = e - k := ⟨(e - d).toNat, by omega⟩
  have hm : m = n * 2 ^ k := by
    rw [zpow_sub₀ two_ne_zero, zpow_natCast] at h
    field_simp at h
    rw [Nat.mul_comm]
    exact_mod_cast h
  rw [hm, f.round_mul_pow]

/-- Both formats hold every integer that fits the fraction, times two to a power of this range: as a normal
number, or as zero. -/
theorem FpFormat.represents_round_of_lt (f : FpFormat) (neg : Bool) {n : Nat} {e : Int}
    (hn : n < 2 ^ (f.fracBits + 1)) (hlow : -126 ≤ e) (hhigh : e ≤ 104) :
    (f.round neg n e).Represents neg (n * 2 ^ e) := by
  by_cases h0 : n = 0
  · have hpos : 0 < f.maxBiased * 2 ^ f.fracBits := by cases f <;> decide
    refine ⟨0, f.minExp, ?_, by simp [h0]⟩
    rw [FpFormat.round, if_pos h0, f.unpack_signed neg hpos, if_pos (Nat.two_pow_pos _)]
  · have hlog : n.log2 < f.fracBits + 1 := (Nat.log2_lt h0).mpr hn
    have hmin : f.minExp + f.fracBits ≤ -126 := by cases f <;> decide
    have hmax : 104 ≤ f.minExp + f.maxBiased - 2 := by cases f <;> decide
    refine ⟨_, _, f.unpack_round_exact neg h0 (by omega) (by omega) (by omega), ?_⟩
    rw [zpow_sub₀ two_ne_zero, zpow_natCast]
    push_cast
    field_simp

/-- The integers that the format holds exactly, as far as the conversion meets them: those that fit the
fraction, and the even ones of one bit more. -/
def FpFormat.HoldsNat (f : FpFormat) (n : Nat) : Prop :=
  n < 2 ^ (f.fracBits + 1) ∨ n % 2 = 0 ∧ n < 2 ^ (f.fracBits + 2)

theorem FpFormat.represents_round (f : FpFormat) (neg : Bool) {n : Nat} {e : Int}
    (hn : f.HoldsNat n) (hlow : -126 ≤ e) (hhigh : e ≤ 103) :
    (f.round neg n e).Represents neg (n * 2 ^ e) := by
  rcases hn with hn | ⟨heven, hn⟩
  · exact f.represents_round_of_lt neg hn hlow (by omega)
  · obtain ⟨m, rfl⟩ : ∃ m, n = 2 * m := ⟨n / 2, by omega⟩
    have hm : m < 2 ^ (f.fracBits + 1) := by rw [Nat.pow_succ] at hn; omega
    have hval : ((2 * m : Nat) : ℚ) * 2 ^ e = m * 2 ^ (e + 1) := by
      rw [zpow_add_one₀ two_ne_zero]; push_cast; ring
    rw [f.round_congr neg hval, hval]
    exact f.represents_round_of_lt neg hm (by omega) (by omega)

/-! ## The two operations -/

/-- A product of two positive numbers is the exact product, rounded once. -/
theorem FpFormat.fmul_eq_round (f : FpFormat) {a b : FpVal} {x y : ℚ} {n : Nat} {e : Int}
    (ha : a.Represents false x) (hb : b.Represents false y) (h : x * y = n * 2 ^ e) :
    f.fmul a b = f.round false n e := by
  obtain ⟨m, d, hva, rfl⟩ := ha
  obtain ⟨m', d', hvb, rfl⟩ := hb
  rw [FpFormat.fmul, hva, hvb]
  refine f.round_congr false (Eq.trans ?_ h)
  rw [zpow_add₀ two_ne_zero]
  push_cast
  ring

theorem mul_zpow_neg_iff (z e : Int) : (z : ℚ) * 2 ^ e < 0 ↔ z < 0 := by
  have h : (0 : ℚ) < 2 ^ e := by positivity
  simp [mul_neg_iff, h, h.not_gt]

theorem exactSum_mul_zpow (m n : Nat) (d e : Int) :
    (exactSum false m d true n e : ℚ) * 2 ^ min d e = m * 2 ^ d - n * 2 ^ e := by
  have scale {p q : Int} (h : q ≤ p) : (2 : ℚ) ^ (p - q).toNat * 2 ^ q = 2 ^ p := by
    rw [← zpow_natCast, ← zpow_add₀ two_ne_zero]; congr 1; omega
  rw [← scale (min_le_left d e), ← scale (min_le_right d e)]
  simp only [exactSum, signedInt, if_true, Bool.false_eq_true, if_false]
  push_cast
  ring

/-- A difference of two positive numbers is the exact difference, rounded once; equal numbers give +0. -/
theorem FpFormat.fsub_eq_round (f : FpFormat) {a b : FpVal} {x y : ℚ} {z e : Int}
    (ha : a.Represents false x) (hb : b.Represents false y) (h : x - y = z * 2 ^ e) :
    f.fsub a b = f.round (decide (z < 0)) z.natAbs e := by
  obtain ⟨m, d, hva, rfl⟩ := ha
  obtain ⟨m', d', hvb, rfl⟩ := hb
  rw [← exactSum_mul_zpow] at h
  rw [FpFormat.fsub, hva, hvb]
  simp only [Unpacked.negate, FpFormat.addUnpacked, Bool.not_false, Bool.and_true]
  generalize exactSum false m d true m' d' = s at h ⊢
  have habs : (s.natAbs : ℚ) * 2 ^ min d d' = z.natAbs * 2 ^ e := by
    simpa [abs_mul, abs_zpow] using congrArg abs h
  have hneg : s < 0 ↔ z < 0 := by rw [← mul_zpow_neg_iff s, h, mul_zpow_neg_iff]
  split
  · rename_i hs
    subst hs
    obtain rfl : z = 0 := by simpa [zpow_ne_zero] using h.symm
    exact f.round_congr false (by simp)
  · rw [f.round_congr _ habs, decide_eq_decide.mpr hneg]

/-! ## Rounding off one bit -/

theorem roundShift_one (m : Nat) :
    roundShift m 1 = if m % 4 = 3 then (m + 1) / 2 else m / 2 := by
  simp only [roundShift]; split <;> split <;> omega

/-- An integer of one bit more than the fraction holds is rounded to an even one. -/
theorem FpFormat.round_roundShift_one (f : FpFormat) (neg : Bool) {m : Nat} {e : Int}
    (hm : 2 ^ (f.fracBits + 1) ≤ m) (hr : roundShift m 1 < 2 ^ (f.fracBits + 1))
    (he : f.minExp ≤ e) :
    f.round neg m e = f.round neg (roundShift m 1 * 2) e := by
  have hpos := Nat.two_pow_pos f.fracBits
  have hbounds : m / 2 ≤ roundShift m 1 ∧ roundShift m 1 ≤ (m + 1) / 2 := by
    rw [roundShift_one]; split <;> omega
  rw [Nat.pow_succ] at hm hr
  have hlog : m.log2 = f.fracBits + 1 :=
    (Nat.log2_eq_iff (by omega)).mpr (by rw [Nat.pow_succ, Nat.pow_succ]; omega)
  have hlogr : (roundShift m 1).log2 = f.fracBits :=
    (Nat.log2_eq_iff (by omega)).mpr (by rw [Nat.pow_succ]; omega)
  have hp : f.lastPlace m e = e + 1 := by rw [FpFormat.lastPlace, hlog]; omega
  have hpr : f.lastPlace (roundShift m 1) (e + 1) = e + 1 := by
    rw [FpFormat.lastPlace, hlogr]; omega
  have hunits : inUnits m e (e + 1) = inUnits (roundShift m 1) (e + 1) (e + 1) := by
    rw [inUnits, if_neg (by omega), inUnits, if_pos le_rfl]; simp
  calc f.round neg m e
      = f.round neg (roundShift m 1) (e + 1) := by
        rw [FpFormat.round, FpFormat.round, if_neg (by omega), if_neg (by omega),
          FpFormat.magnitude, FpFormat.magnitude, hp, hpr, hunits]
    _ = f.round neg (roundShift m 1 * 2) e := by
        simpa using (f.round_mul_pow neg (roundShift m 1) 1 (e + 1)).symm

end Sys2Proof
end

section
namespace Sys2Proof.Machine

/-! ## What the conversion rounds to -/

/-- `25·RAW` as the multiplication leaves it (R92): in binary32 an odd code from 0xA3D71 on gives the multiple
of 4 next to it. -/
def roundedProduct : FpFormat → Code → Nat
  | .binary64, c => 25 * c.toNat
  | .binary32, c =>
    if c.toNat % 2 = 1 ∧ 0xA3D71 ≤ c.toNat then (25 * c.toNat + 2) / 4 * 4 else 25 * c.toNat

/-- The rounded product of the largest code. -/
def maxProduct : FpFormat → Nat
  | .binary64 => 26214375
  | .binary32 => 26214376

/-- What the subtraction leaves, in units of 2^-17: 50 is 6553600 of them. -/
def difference (f : FpFormat) (c : Code) : Int := roundedProduct f c - 6553600

/-- The three cases of R92. -/
theorem roundedProduct_cases (f : FpFormat) (c : Code) :
    (f = .binary64 ∧ roundedProduct f c = 25 * c.toNat) ∨
    (f = .binary32 ∧ (c.toNat % 2 = 0 ∨ c.toNat < 0xA3D71) ∧ roundedProduct f c = 25 * c.toNat) ∨
    (f = .binary32 ∧ (c.toNat % 2 = 1 ∧ 0xA3D71 ≤ c.toNat) ∧ roundedProduct f c % 4 = 0 ∧
      (roundedProduct f c = 25 * c.toNat + 1 ∨ roundedProduct f c + 1 = 25 * c.toNat)) := by
  cases f with
  | binary64 => exact .inl ⟨rfl, rfl⟩
  | binary32 =>
    refine .inr ?_
    simp only [roundedProduct, eq_self, true_and]
    split <;> omega

theorem roundedProduct_binary64 (c : Code) : roundedProduct .binary64 c = 25 * c.toNat := rfl

theorem roundedProduct_le_max (f : FpFormat) (c : Code) : roundedProduct f c ≤ maxProduct f := by
  have := c.isLt
  rcases roundedProduct_cases f c with ⟨rfl, h⟩ | ⟨rfl, h⟩ | ⟨rfl, h⟩ <;> simp only [maxProduct] <;>
    omega

theorem roundedProduct_holds (f : FpFormat) (c : Code) : f.HoldsNat (roundedProduct f c) := by
  have := c.isLt
  unfold FpFormat.HoldsNat
  rcases roundedProduct_cases f c with ⟨rfl, h⟩ | ⟨rfl, hcode, h⟩ | ⟨rfl, hcode, h⟩ <;>
    simp only [FpFormat.fracBits] <;> omega

theorem difference_holds (f : FpFormat) (c : Code) : f.HoldsNat (difference f c).natAbs := by
  have := c.isLt
  unfold FpFormat.HoldsNat difference
  rcases roundedProduct_cases f c with ⟨rfl, h⟩ | ⟨rfl, hcode, h⟩ | ⟨rfl, hcode, h⟩ <;>
    simp only [FpFormat.fracBits] <;> omega

/-- The rounding does not cross zero. -/
theorem difference_neg_iff (f : FpFormat) (c : Code) : difference f c < 0 ↔ c.toNat < 0x40000 := by
  have := roundedProduct_cases f c
  unfold difference
  omega

theorem difference_mul_zpow (f : FpFormat) (c : Code) :
    (difference f c : ℚ) * 2 ^ (-17 : Int) = (roundedProduct f c : ℚ) / 2 ^ 17 - 50 := by
  rw [difference]; norm_num; ring

/-- The multiplication rounds `25·RAW` to `roundedProduct`. -/
theorem round_eq_round_roundedProduct (f : FpFormat) (c : Code) {e : Int} (he : -126 ≤ e) :
    f.round false (25 * c.toNat) e = f.round false (roundedProduct f c) e := by
  have := c.isLt
  rcases roundedProduct_cases f c with ⟨-, h⟩ | ⟨-, -, h⟩ | ⟨rfl, hodd, h⟩
  · rw [h]
  · rw [h]
  · have hmin : FpFormat.binary32.minExp = -149 := by decide
    have hshift : roundShift (25 * c.toNat) 1 * 2 = roundedProduct .binary32 c := by
      rw [roundShift_one]; split <;> omega
    rw [← hshift]
    refine FpFormat.round_roundShift_one _ _ ?_ ?_ (by omega) <;> simp only [FpFormat.fracBits] <;>
      omega

/-! ## Constants, codes and results -/

theorem fp_represents (f : FpFormat) (c : Code) : (f.fp c.toNat).Represents false c.toNat := by
  have hc : c.toNat < 2 ^ (f.fracBits + 1) :=
    c.isLt.trans_le (Nat.pow_le_pow_right two_pos (by cases f <;> decide))
  simpa [FpFormat.fp] using f.represents_round_of_lt false hc (e := 0) (by decide) (by decide)

/-- The three constants are 25 times a power of two (R91). -/
theorem round_25_represents (f : FpFormat) {e : Int} (hlow : -126 ≤ e) (hhigh : e ≤ 104) :
    (f.round false 25 e).Represents false (25 * 2 ^ e) :=
  f.represents_round_of_lt false (by cases f <;> decide) hlow hhigh

/-- The multiplication of a code by a constant. -/
theorem fmul_fp_represents (f : FpFormat) (c : Code) {e : Int} (hlow : -126 ≤ e) (hhigh : e ≤ 103) :
    (f.fmul (f.fp c.toNat) (f.round false 25 e)).Represents false (roundedProduct f c * 2 ^ e) := by
  rw [f.fmul_eq_round (n := 25 * c.toNat) (e := e) (fp_represents f c)
    (round_25_represents f hlow (by omega)) (by push_cast; ring), round_eq_round_roundedProduct f c hlow]
  exact f.represents_round false (roundedProduct_holds f c) hlow hhigh

theorem humOf_represents (f : FpFormat) (c : Code) :
    (humOf f c).Represents false (roundedProduct f c * 2 ^ (-18 : Int)) :=
  fmul_fp_represents f c (by decide) (by decide)

theorem tempOf_eq_round (f : FpFormat) (c : Code) : tempOf f c =
    f.round (decide (difference f c < 0)) (difference f c).natAbs (-17) :=
  f.fsub_eq_round (fmul_fp_represents f c (by decide) (by decide))
    (round_25_represents f (by decide) (by decide)) (by rw [difference]; norm_num; ring)

/-- The subtraction is exact. -/
theorem tempOf_represents (f : FpFormat) (c : Code) : (tempOf f c).Represents
    (decide (difference f c < 0)) ((difference f c).natAbs * 2 ^ (-17 : Int)) := by
  rw [tempOf_eq_round]
  exact f.represents_round _ (difference_holds f c) (by decide) (by decide)

theorem humOf_value (f : FpFormat) (c : Code) :
    (humOf f c).value = some ((roundedProduct f c : ℚ) / 2 ^ 18) := by
  rw [(humOf_represents f c).value_eq]; norm_num [div_eq_mul_inv]

theorem tempOf_value (f : FpFormat) (c : Code) :
    (tempOf f c).value = some ((roundedProduct f c : ℚ) / 2 ^ 17 - 50) := by
  rw [(tempOf_represents f c).value_eq_int, difference_mul_zpow]

theorem humOf_signOf (f : FpFormat) (c : Code) : f.signOf (humOf f c).pattern = false := by
  simpa using (humOf_represents f c).signOf_eq

theorem tempOf_signOf (f : FpFormat) (c : Code) :
    f.signOf (tempOf f c).pattern = decide (c.toNat < 0x40000) := by
  simpa [difference_neg_iff] using (tempOf_represents f c).signOf_eq

theorem humOf_value_lt_100 (f : FpFormat) (c : Code) : (roundedProduct f c : ℚ) / 2 ^ 18 < 100 := by
  have hmax : maxProduct f < 26214400 := by cases f <;> decide
  have hq : (roundedProduct f c : ℚ) < 26214400 := by
    exact_mod_cast (roundedProduct_le_max f c).trans_lt hmax
  linarith

theorem tempOf_value_neg_iff (f : FpFormat) (c : Code) :
    (roundedProduct f c : ℚ) / 2 ^ 17 - 50 < 0 ↔ c.toNat < 0x40000 := by
  rw [← difference_mul_zpow, mul_zpow_neg_iff, difference_neg_iff]

/-! ## Statements about the numbers -/

/-- Settles O47: each is an integer that fits the fraction, times a power of two. -/
theorem constantsAndCodesAreExact : Obligations.ConstantsAndCodesAreExact := by
  intro f
  refine ⟨?_, ?_, ?_, fun c => (fp_represents f c).value_eq⟩
  · rw [constH, (round_25_represents f (by decide) (by decide)).value_eq]; norm_num
  · rw [constT, (round_25_represents f (by decide) (by decide)).value_eq]; norm_num
  · rw [tempOffset, (round_25_represents f (by decide) (by decide)).value_eq]; norm_num

/-- Settles O48: in binary64 the rounded product is the product, and the values tell the codes apart. -/
theorem binary64ResultsAreExact : Obligations.Binary64ResultsAreExact := by
  refine ⟨fun c => ⟨?_, ?_⟩, fun c d h => ?_, fun c d h => ?_⟩
  · rw [humOf_value, roundedProduct_binary64]; norm_num
  · rw [tempOf_value, roundedProduct_binary64]; norm_num; ring
  · have hvalue := congrArg FpVal.value h
    simpa [humOf_value, roundedProduct_binary64, BitVec.toNat_eq] using hvalue
  · have hvalue := congrArg FpVal.value h
    simpa [tempOf_value, roundedProduct_binary64, BitVec.toNat_eq] using hvalue

/-- Settles O49: the integer is the rounded product. -/
theorem binary32RoundsToMultiplesOfFour : Obligations.Binary32RoundsToMultiplesOfFour := by
  intro c
  have hcases := roundedProduct_cases .binary32 c
  simp only [reduceCtorEq, false_and, false_or, true_and] at hcases
  exact ⟨roundedProduct .binary32 c, humOf_value _ c, tempOf_value _ c, by omega, by omega⟩

/-- Settles O50: `maxProduct` bounds the product, and the sign is that of the difference. -/
theorem resultsStayInRange : Obligations.ResultsStayInRange := by
  intro f c
  have hnonneg : (0 : ℚ) ≤ roundedProduct f c := Nat.cast_nonneg _
  have hmax : (roundedProduct f c : ℚ) ≤ maxProduct f := by
    exact_mod_cast roundedProduct_le_max f c
  refine ⟨_, _, humOf_value f c, tempOf_value f c, by positivity, ?_, by linarith, ?_,
    humOf_signOf f c, ?_⟩
  · refine (div_le_div_of_nonneg_right hmax (by norm_num)).trans (le_of_eq ?_)
    cases f <;> simp [maxProduct]
  · refine (sub_le_sub_right (div_le_div_of_nonneg_right hmax (by norm_num)) _).trans (le_of_eq ?_)
    cases f <;> simp [maxProduct]
  · rw [tempOf_signOf, decide_eq_true_iff, tempOf_value_neg_iff]

/-! ## The operations of CONVERT -/

theorem fp_50_eq_tempOffset (f : FpFormat) : f.fp 50 = tempOffset f :=
  f.round_mul_pow false 25 1 1

/-- By the rounded difference: the model's own sum here is an integer times the least exponent of binary64, too
large to run. -/
theorem tempOf_binary64_zero : tempOf .binary64 0x00000 = .b64 0xC049000000000000 := by
  rw [tempOf_eq_round]; decide

/-- Settles O16: the operations as the model has them, the corner cases run, and the values and signs. -/
theorem conversionMultipliesThenSubtracts : Obligations.ConversionMultipliesThenSubtracts := by
  refine ⟨fun s => ⟨rfl, ?_⟩, by decide, by decide, by decide, by decide, by decide, by decide,
    tempOf_binary64_zero, by decide, by decide, by decide, by decide, by decide,
    fun f c => ⟨⟨_, humOf_value f c, humOf_value_lt_100 f c⟩,
      ⟨_, tempOf_value f c, tempOf_value_neg_iff f c⟩, ?_⟩⟩
  · rw [fp_50_eq_tempOffset]; rfl
  · rw [tempOf_signOf, decide_eq_true_iff]

/-- R86, bit by bit: shifted by its place, each field covers its own bits. -/
theorem rawHOf_eq_fields (f : Frame) : rawHOf f = f.b1 ++ f.b2 ++ f.b3.extractLsb' 4 4 := by
  apply BitVec.eq_of_getLsbD_eq
  intro i hi
  simp only [rawHOf, zext32, BitVec.getLsbD_setWidth, BitVec.getLsbD_or, BitVec.getLsbD_ushiftRight,
    BitVec.getLsbD_shiftLeft, BitVec.getLsbD_append, BitVec.getLsbD_extractLsb']
  grind

/-- R87, bit by bit: the mask keeps the low nibble. -/
theorem rawTOf_eq_fields (f : Frame) : rawTOf f = f.b3.extractLsb' 0 4 ++ f.b4 ++ f.b5 := by
  have hmask : (0x0F : BitVec 32) = (BitVec.allOnes 4).setWidth 32 := by decide
  apply BitVec.eq_of_getLsbD_eq
  intro i hi
  simp only [rawTOf, zext32, hmask, BitVec.getLsbD_setWidth, BitVec.getLsbD_or, BitVec.getLsbD_and,
    BitVec.getLsbD_shiftLeft, BitVec.getLsbD_append, BitVec.getLsbD_extractLsb',
    BitVec.getLsbD_allOnes]
  grind

/-- Settles O15: the shifts and masks of the extraction are the bit fields. -/
theorem extractionTakesTheFramesBitFields : Obligations.ExtractionTakesTheFramesBitFields := by
  rintro s f rfl
  rw [← rawHOf_eq_fields, ← rawTOf_eq_fields]
  exact ⟨rfl, rfl⟩

/-- Settles O14: by the meaning of CONVERT. -/
theorem convertWritesTheReading : Obligations.ConvertWritesTheReading := fun _ => rfl

/-- Settles O46: each code is made of its own fields, and each result of its own code. -/
theorem unusedFrameBitsNeverMatter : Obligations.UnusedFrameBitsNeverMatter := by
  intro s f g h1 h2 h4 h5
  have hrawH (h : f.b3.extractLsb' 4 4 = g.b3.extractLsb' 4 4) : rawHOf f = rawHOf g := by
    rw [rawHOf_eq_fields, rawHOf_eq_fields, h1, h2, h]
  have hrawT (h : f.b3.extractLsb' 0 4 = g.b3.extractLsb' 0 4) : rawTOf f = rawTOf g := by
    rw [rawTOf_eq_fields, rawTOf_eq_fields, h4, h5, h]
  refine ⟨_, _, rfl, rfl, fun h3 => ?_, fun h => ?_, fun h => ?_⟩
  · simp [hrawH (by rw [h3]), hrawT (by rw [h3])]
  · simp [hrawH h]
  · simp [hrawT h]

end Sys2Proof.Machine
end

section
namespace Sys2Proof.Machine

/-! ## Failure entry and FAILED -/

/-- Failure entry, with the whole next state written out (R96). -/
theorem emit_raiseTransportError (e : TransportErr) (s : State) :
    (s.emit (.busFail e)).raiseTransportError e = { s with
      seq := seqFailed, errKind := .holds errTransport, errVal := .holds e,
      trace := s.trace ++ [.busFail e] } := rfl

/-- Settles O13: the six receivers fail alike, and FAILED puts at most its response on the trace. -/
theorem failureEntryRecordsTheErrorAndIssuesNothing :
    Obligations.FailureEntryRecordsTheErrorAndIssuesNothing := by
  refine ⟨fun s e i hb hi => ?_, fun s t h => ?_⟩
  · have hreceiver : i ∈ receivers := by simpa [receivers] using hi
    rw [exec_receiver_fail hreceiver hb, emit_raiseTransportError]
    rfl
  · rcases execFailed_eq_next h with ⟨-, rfl⟩ | ⟨-, rfl⟩
    · exact ⟨[s.errorResponse.event], rfl, s.errorResponse.requestsIn_event, rfl⟩
    · exact ⟨[], by simp, rfl, rfl⟩

theorem errorResponse_transport {s : State} (h : s.errKind.get = 0) :
    s.errorResponse = .transport s.errVal.get := if_pos h

theorem response_failed {s : State} (h : s.seq = 0xA) : s.response = some s.errorResponse := by
  rw [State.response, h]; rfl

/-- Settles O19: by the two cases of `respond`, on the response of kind TRANSPORT. -/
theorem failedPresentsTheErrorUntilAccepted : Obligations.FailedPresentsTheErrorUntilAccepted := by
  rintro s e hkind rfl
  have hresponse := errorResponse_transport hkind
  refine ⟨fun hs => ⟨?_, rfl⟩, respond_held, fun ha => ?_⟩
  · rw [response_failed hs, hresponse]
  · rw [exec_failed, execFailed, hresponse]
    exact respond_accepted_frame _ ha

/-- What an instruction leaves in ERR_KIND: its old contents, no written value (after reset and after
the return to IDLE), or TRANSPORT (R25, R96). -/
theorem Effect.errKind {i : Instr} {s t : State} (h : Effect i s t) :
    t.errKind = s.errKind ∨ t.errKind = unwrittenErrKind ∨ t.errKind = .holds errTransport := by
  cases h with
  | reset | respond => exact .inr (.inl rfl)
  | fail => exact .inr (.inr rfl)
  | stay | proceed | recalibrate | receive | convert | issue | logCal | extractH | extractT | convH
  | convT => exact .inl rfl

/-- Settles O34: of the three, only the old contents can be READ_TOO_FAST. -/
theorem readTooFastIsNeverRaised : Obligations.ReadTooFastIsNeverRaised := by
  intro i s t h ht
  rcases (exec_effect h).errKind with hsame | hunwritten | htransport
  · rwa [← hsame]
  · exact absurd (hunwritten.symm.trans ht) (unwrittenErrKind_ne_holds 1)
  · exact absurd (htransport.symm.trans ht) (by decide)

/-! ## Reset beside other inputs -/

/-- A bus answer is owed for the request that is outstanding and not answered in this very step. -/
theorem abandonedBus_eq (s : State) : s.abandonedBus =
    if s.seq ∈ ([0x1, 0x2, 0x3, 0x4, 0x5, 0x7] : List (BitVec 4)) ∧ s.now.bus = none
    then 1 else 0 := by
  simp only [State.abandonedBus, Bool.and_eq_true, awaitsBus_iff, Option.isNone_iff_eq_none]

/-- A completion is owed for the delay that runs and does not complete in this very step. -/
theorem abandonedDelay_eq (s : State) : s.abandonedDelay =
    if s.seq = 0x6 ∧ s.now.delay = false then 1 else 0 := by
  simp only [State.abandonedDelay, Bool.and_eq_true, awaitsDelay_iff, Bool.not_eq_true']

/-- A count that one more is added to exactly if `p`. -/
theorem add_ite_one_iff (n : Nat) (p : Prop) [Decidable p] :
    (n + (if p then 1 else 0) = n + 1 ↔ p) ∧ (n + (if p then 1 else 0) = n ↔ ¬p) := by
  by_cases hp : p <;> simp [hp]

/-- Settles O26: the step is `resetTo`, which looks at the answers only to count those still owed. -/
theorem resetWinsOverEveryOtherInput : Obligations.ResetWinsOverEveryOtherInput := by
  intro s a hseq hreset hlateBus hlateDelay
  have howedBus : ((s.resetTo a).advance s.now).owedBus = s.owedBus + s.abandonedBus := by
    simp [hlateBus]
  have howedDelay : ((s.resetTo a).advance s.now).owedDelay = s.owedDelay + s.abandonedDelay := by
    simp [hlateDelay]
  refine ⟨_, step_of_reset hseq hreset, rfl, rfl, rfl, rfl, rfl, rfl, ?_⟩
  rw [howedBus, howedDelay, abandonedBus_eq, abandonedDelay_eq]
  exact ⟨(add_ite_one_iff _ _).1, (add_ite_one_iff _ _).2, add_ite_one_iff _ _⟩

/-! ## Waiting -/

/-- Among the inputs `x` is none that the block takes while SEQ is `c`: no reset, no answer, in IDLE
no READ, in DONE and FAILED no accept (R108). -/
structure Inputs.LeavesWaiting (x : Inputs) (c : BitVec 4) : Prop where
  reset : x.reset = none
  bus : x.bus = none
  delay : x.delay = false
  lateBus : x.lateBus = none
  lateDelay : x.lateDelay = false
  read : c = 0x0 → x.read = false
  accept : c = 0x9 ∨ c = 0xA → x.accept = false

/-- Where no input is left, nothing arrives. -/
theorem Inputs.leavesWaiting_empty (c : BitVec 4) : ({} : Inputs).LeavesWaiting c :=
  ⟨rfl, rfl, rfl, rfl, rfl, fun _ => rfl, fun _ => rfl⟩

theorem now_leavesWaiting {s : State} {c : BitVec 4} (h : ∀ x ∈ s.env, x.LeavesWaiting c) :
    s.now.LeavesWaiting c := by
  unfold State.now
  split
  · exact Inputs.leavesWaiting_empty c
  · rename_i x rest henv
    exact h x (by simp [henv])

section
variable {s : State} (h : s.now.LeavesWaiting s.seq)
include h

theorem breach_of_waiting : s.breach = none := by
  simp [State.breach, h.bus, h.delay, h.lateBus, h.lateDelay]

/-- Every micro-operation but CONVERT waits for an input. -/
theorem exec_of_waiting {i : Instr} (hi : decodeSeq s.seq.toNat = .ok i) (hconvert : s.seq ≠ 0x8) :
    exec i s = .next s := by
  have hreceiver (hr : i ∈ receivers) : exec i s = .next s := exec_receiver_none hr h.bus
  rcases decodeSeq_eq_ok hi with ⟨hs, rfl⟩ | ⟨-, rfl⟩ | ⟨-, rfl⟩ | ⟨-, rfl⟩ | ⟨-, rfl⟩ | ⟨-, rfl⟩ |
    ⟨-, rfl⟩ | ⟨-, rfl⟩ | ⟨hs, -⟩ | ⟨hs, rfl⟩ | ⟨hs, rfl⟩
  · exact execIdle_held (h.read hs)
  · exact hreceiver (by decide)
  · exact hreceiver (by decide)
  · exact hreceiver (by decide)
  · exact hreceiver (by decide)
  · exact hreceiver (by decide)
  · exact execWait_held h.delay
  · exact hreceiver (by decide)
  · exact absurd hs hconvert
  · exact respond_held (h.accept (.inl hs))
  · exact respond_held (h.accept (.inr hs))

theorem advance_of_waiting : s.advance s.now = { s with env := s.env.tail } := by
  simp [State.advance, h.lateBus, h.lateDelay]

/-- A step in which nothing arrives that the block takes uses up its inputs and does nothing else. -/
theorem step_of_waiting (hlegal : s.seq.toNat ≤ 0xA) (hconvert : s.seq ≠ 0x8) :
    step s = .next { s with env := s.env.tail } := by
  obtain ⟨i, hi⟩ := decodeSeq_legal hlegal
  have hfetch : s.fetch = .next i := by simp [State.fetch, hi, h.reset, breach_of_waiting h]
  rw [step_of_fetch hfetch (exec_of_waiting h hi hconvert), advance_of_waiting h]
end

/-- Any number of such steps. -/
theorem run_of_waiting (n : Nat) {s : State} (hlegal : s.seq.toNat ≤ 0xA) (hconvert : s.seq ≠ 0x8)
    (h : ∀ x ∈ s.env, x.LeavesWaiting s.seq) :
    core.run n s = .next { s with env := s.env.drop n } := by
  induction n generalizing s with
  | zero => rfl
  | succ n ih =>
    have hstep : core.step s = .next { s with env := s.env.tail } :=
      step_of_waiting (now_leavesWaiting h) hlegal hconvert
    simp only [Host.Core.run, hstep]
    simpa using ih (s := { s with env := s.env.tail }) hlegal hconvert
      fun x hx => h x (List.mem_of_mem_tail hx)

/-- Settles O29: under the invariant SEQ names a micro-operation, and each but CONVERT waits. -/
theorem waitsKeepAllState : Obligations.WaitsKeepAllState := by
  intro s n hinv hconvert henv
  refine run_of_waiting n hinv.seqLegal hconvert fun x hx => ?_
  obtain ⟨hreset, hbus, hdelay, hlateBus, hlateDelay, hread, haccept⟩ := henv x hx
  exact ⟨hreset, hbus, hdelay, hlateBus, hlateDelay, hread, haccept⟩

end Sys2Proof.Machine
end

section
namespace Sys2Proof.Machine

/-! ## Reset -/

/-- Settles O25: RESET is `resetTo`, whose fields are those of `afterReset`, the rest being kept. -/
theorem resetTakesEffectFromAnyState : Obligations.ResetTakesEffectFromAnyState := fun a s =>
  ⟨s.resetTo a, rfl, rfl, rfl, rfl, rfl, rfl, rfl, rfl, rfl, rfl, rfl, rfl, rfl, rfl, rfl⟩

/-- After a reset no READ has been accepted and nothing is on the trace. -/
theorem afterReset_conforms (a : Addr) (f : FpFormat) : (State.afterReset a f).Conforms :=
  ⟨[], [], rfl, .start a, (inProgress_idle rfl).mpr rfl⟩

/-- Settles O42: the power-up state is one of those after a reset. -/
theorem protocolHoldsAtReset : Obligations.ProtocolHoldsAtReset :=
  ⟨afterReset_conforms _ _, afterReset_conforms⟩

/-! ## Late answers

Two states that differ in the late answers of the present step alone go through the same instruction
to the same state, since no instruction looks at them; only `State.advance` does, which discards them
(R111, log 8). -/

/-- The inputs are the same but for the late answers. -/
structure Inputs.SameButLate (x y : Inputs) : Prop where
  reset : x.reset = y.reset
  read : x.read = y.read
  accept : x.accept = y.accept
  bus : x.bus = y.bus
  delay : x.delay = y.delay

@[simp] theorem present_now (x : Inputs) (s : State) : (s.present x).now = x := rfl

/-- The outcome `r`, with `x` for the inputs of the present step. -/
def presentOutcome (x : Inputs) (r : Result) : Result := andThen r fun t => .next (t.present x)

section
variable {x : Inputs} {s : State}

theorem onBusResponse_present {k : List Byte → State → Result} (hbus : x.bus = s.now.bus)
    (hk : ∀ bs u, k bs (u.present x) = presentOutcome x (k bs u)) :
    onBusResponse k (s.present x) = presentOutcome x (onBusResponse k s) := by
  match hs : s.now.bus with
  | none => rw [onBusResponse_none hs, onBusResponse_none (s := s.present x) (hbus.trans hs)]; rfl
  | some (.fail e) =>
    rw [onBusResponse_fail hs, onBusResponse_fail (s := s.present x) (hbus.trans hs)]
    rfl
  | some (.ok bs) =>
    rw [onBusResponse_ok hs, onBusResponse_ok (s := s.present x) (hbus.trans hs)]
    exact hk bs (s.emit (.busOk bs))

theorem onWriteResponse_present {k : State → State} (hbus : x.bus = s.now.bus)
    (hk : ∀ u, k (u.present x) = (k u).present x) :
    onWriteResponse k (s.present x) = presentOutcome x (onWriteResponse k s) := by
  refine onBusResponse_present hbus fun bs u => ?_
  match bs with
  | [] => exact congrArg _ (hk u)
  | _ :: _ => rfl

theorem afterStatus_present (b : Byte) :
    afterStatus b (s.present x) = (afterStatus b s).present x := by
  unfold afterStatus
  split <;> rfl

theorem execCheckCal_present (hbus : x.bus = s.now.bus) :
    execCheckCal (s.present x) = presentOutcome x (execCheckCal s) := by
  refine onBusResponse_present hbus fun bs u => ?_
  match bs with
  | [] | _ :: _ :: _ => rfl
  | [b] => exact congrArg _ (afterStatus_present b)

theorem execReadData_present (hbus : x.bus = s.now.bus) :
    execReadData (s.present x) = presentOutcome x (execReadData s) := by
  refine onBusResponse_present hbus fun bs u => ?_
  match Frame.ofBytes bs with
  | none | some _ => rfl

theorem respond_present (r : HostResponse) (haccept : x.accept = s.now.accept) :
    respond r (s.present x) = presentOutcome x (respond r s) := by
  cases hs : s.now.accept with
  | false => rw [respond_held hs, respond_held (s := s.present x) (haccept.trans hs)]; rfl
  | true => rw [respond_accepted hs, respond_accepted (s := s.present x) (haccept.trans hs)]; rfl

theorem execRead_present : execRead (s.present x) = presentOutcome x (execRead s) := by
  by_cases hs : s.seq = 0x0
  · rw [execRead_idle hs, execRead_idle (s := s.present x) hs]; rfl
  · rw [execRead_elsewhere hs, execRead_elsewhere (s := s.present x) hs]; rfl

theorem execIdle_present (hread : x.read = s.now.read) :
    execIdle (s.present x) = presentOutcome x (execIdle s) := by
  unfold execIdle
  rw [present_now, hread]
  split <;> rfl

theorem execWait_present (hdelay : x.delay = s.now.delay) :
    execWait (s.present x) = presentOutcome x (execWait s) := by
  unfold execWait
  rw [present_now, hdelay]
  split <;> rfl

theorem wireTransaction_present (a : Addr) (q : BusRequest) :
    wireTransaction a q (s.present x) = presentOutcome x (wireTransaction a q s) := by
  by_cases ha : a = s.addr
  · rw [wireTransaction_own ha, wireTransaction_own (s := s.present x) ha]; rfl
  · rw [wireTransaction_foreign ha, wireTransaction_foreign (s := s.present x) ha]; rfl

theorem resetTo_present (a : Addr) (h : x.SameButLate s.now) :
    (s.present x).resetTo a = (s.resetTo a).present x := by
  have hbus : (s.present x).abandonedBus = s.abandonedBus := by
    rw [State.abandonedBus, present_now, h.bus]; rfl
  have hdelay : (s.present x).abandonedDelay = s.abandonedDelay := by
    rw [State.abandonedDelay, present_now, h.delay]; rfl
  rw [State.resetTo, hbus, hdelay]
  rfl

/-- No instruction looks at the late answers of the present step. -/
theorem exec_present (i : Instr) (h : x.SameButLate s.now) :
    exec i (s.present x) = presentOutcome x (exec i s) := by
  cases i with
  | read => exact execRead_present
  | reset a => exact congrArg _ (resetTo_present a h)
  | idle => exact execIdle_present h.read
  | wait => exact execWait_present h.delay
  | checkCal => exact execCheckCal_present h.bus
  | readData => exact execReadData_present h.bus
  | cal1B => simp only [exec_cal1B, execCal1B]; exact onWriteResponse_present h.bus fun _ => rfl
  | cal1C => simp only [exec_cal1C, execCal1C]; exact onWriteResponse_present h.bus fun _ => rfl
  | cal1E => simp only [exec_cal1E, execCal1E]; exact onWriteResponse_present h.bus fun _ => rfl
  | trigger => simp only [exec_trigger, execTrigger]; exact onWriteResponse_present h.bus fun _ => rfl
  | done | failed => exact respond_present _ h.accept
  | rdStatus a | rdFrame a | wrCal1B a | wrCal1C a | wrCal1E a | wrTrig a =>
    exact wireTransaction_present a _
  | convert | dly80 | logCal | extractH | extractT | convH | convT => rfl

/-- Two late answers breach alike, if they are the same wherever none is owed. -/
theorem lateBreach_congr {p q : Bool} {owed : Nat} (h : owed = 0 → p = q) :
    (p && owed == 0) = (q && owed == 0) := by
  by_cases h0 : owed = 0
  · rw [h h0]
  · rw [beq_false_of_ne h0, Bool.and_false, Bool.and_false]

/-- A late answer is no breach while one of its kind is owed. -/
theorem breach_present (h : x.SameButLate s.now)
    (hbus : s.owedBus = 0 → x.lateBus = s.now.lateBus)
    (hdelay : s.owedDelay = 0 → x.lateDelay = s.now.lateDelay) :
    (s.present x).breach = s.breach := by
  have hlateBus := lateBreach_congr fun h0 => congrArg Option.isSome (hbus h0)
  have hlateDelay := lateBreach_congr hdelay
  unfold State.breach
  rw [← hlateBus, ← hlateDelay, ← h.bus, ← h.delay]
  rfl

/-- A step whose late answers are exchanged for others, where some are owed, is the same step but for
`settle`, the difference that `State.advance` makes between the two: it drops the inputs and counts. -/
theorem step_present {settle : State → State} (h : x.SameButLate s.now)
    (hbus : s.owedBus = 0 → x.lateBus = s.now.lateBus)
    (hdelay : s.owedDelay = 0 → x.lateDelay = s.now.lateDelay)
    (hsettle : ∀ t : State, t.advance x = settle (t.advance s.now)) :
    step (s.present x) = andThen (step s) fun t => .next (settle t) := by
  have hfetch : (s.present x).fetch = s.fetch := by
    unfold State.fetch
    rw [breach_present h hbus hdelay, present_now, h.reset]
    rfl
  unfold step
  rw [hfetch]
  match s.fetch with
  | .fault _ | .refused _ => rfl
  | .next i =>
    simp only [exec_present i h, present_now]
    match exec i s with
    | .fault _ | .refused _ => rfl
    | .next t => exact congrArg _ (hsettle t)
end

theorem advance_lateBus {i : Inputs} (h : i.lateBus = none) (r : BusResponse) (t : State) :
    t.advance { i with lateBus := some r } =
      { t.advance i with owedBus := (t.advance i).owedBus - 1 } := by
  unfold State.advance
  rw [h]
  rfl

theorem advance_lateDelay {i : Inputs} (h : i.lateDelay = false) (t : State) :
    t.advance { i with lateDelay := true } =
      { t.advance i with owedDelay := (t.advance i).owedDelay - 1 } := by
  unfold State.advance
  rw [h]
  rfl

/-- Settles O27: by `step_present`, with one answer of the late one's kind fewer owed. -/
theorem lateAnswersAreDiscarded : Obligations.LateAnswersAreDiscarded := by
  intro s i rest n
  refine ⟨fun r hlate => ?_, fun hlate => ?_⟩
  · exact step_present (x := { i with lateBus := some r })
      (s := { s with env := i :: rest, owedBus := n + 1 })
      ⟨rfl, rfl, rfl, rfl, rfl⟩ nofun (fun _ => rfl) (advance_lateBus hlate r)
  · exact step_present (x := { i with lateDelay := true })
      (s := { s with env := i :: rest, owedDelay := n + 1 })
      ⟨rfl, rfl, rfl, rfl, rfl⟩ (fun _ => rfl) nofun (advance_lateDelay hlate)

end Sys2Proof.Machine
end

section
namespace Sys2Proof.Machine

/-! ## The refusal of answers that nobody asked for (D25, I12; logs 8 and 9) -/

/-- An input that the environment owes the block not to send ends the step. -/
theorem step_of_breach {s : State} {r : Refusal} (hs : s.seq.toNat ≤ 0xA) (hr : s.now.reset = none)
    (hb : s.breach = some r) : step s = .refused r := by
  obtain ⟨i, hi⟩ := decodeSeq_legal hs
  simp [step, State.fetch, hi, hr, hb]

/-- The bus lines are looked at first, so what the delay lines carry does not matter. -/
theorem breach_of_unrequestedBus {s : State}
    (h : (s.now.bus.isSome = true ∧ ¬s.awaitsBus = true) ∨
      (s.now.lateBus.isSome = true ∧ s.owedBus = 0)) :
    s.breach = some .unrequestedBusResponse := by
  unfold State.breach
  rcases h with ⟨hbus, hseq⟩ | ⟨hlate, howed⟩
  · simp [hbus, hseq]
  · simp [hlate, howed]

/-- The delay lines are looked at where the bus lines carry nothing unrequested. -/
theorem breach_of_unrequestedDelay {s : State}
    (hbus : s.now.bus.isSome = true → s.awaitsBus = true)
    (hlateBus : s.now.lateBus.isSome = true → s.owedBus ≠ 0)
    (h : (s.now.delay = true ∧ ¬s.awaitsDelay = true) ∨
      (s.now.lateDelay = true ∧ s.owedDelay = 0)) :
    s.breach = some .unrequestedDelayCompletion := by
  have hfirst : ¬(s.now.bus.isSome && !s.awaitsBus) = true := by simpa using hbus
  have hsecond : ¬(s.now.lateBus.isSome && s.owedBus == 0) = true := by simpa using hlateBus
  unfold State.breach
  rw [if_neg hfirst, if_neg hsecond]
  rcases h with ⟨hdelay, hseq⟩ | ⟨hlate, howed⟩
  · simp [hdelay, hseq]
  · simp [hlate, howed]

/-- Settles O28: each of the four inputs is a breach, and a breach ends the step. -/
theorem unrequestedAnswersAreRefused : Obligations.UnrequestedAnswersAreRefused := by
  intro s hs hr
  simp only [← awaitsBus_iff, ne_eq, ← awaitsDelay_iff]
  refine ⟨fun hbus hseq => ?_, fun hlate howed => ?_, fun hbus hlateBus =>
    ⟨fun hdelay hseq => ?_, fun hlate howed => ?_⟩⟩
  · exact step_of_breach hs hr (breach_of_unrequestedBus (.inl ⟨hbus, hseq⟩))
  · exact step_of_breach hs hr (breach_of_unrequestedBus (.inr ⟨hlate, howed⟩))
  · exact step_of_breach hs hr (breach_of_unrequestedDelay hbus hlateBus (.inl ⟨hdelay, hseq⟩))
  · exact step_of_breach hs hr (breach_of_unrequestedDelay hbus hlateBus (.inr ⟨hlate, howed⟩))

end Sys2Proof.Machine
end
